-- ==== Sys2Proof/Word.lean ====
section
/-! DEFINITION. The widths of the core (spec/00_scope.md R7, R13) and the Jacobian triple (spec/10_state.md R24). -/

namespace Sys2Proof

/-- A tag or one byte of the window (R13). -/
abbrev Byte := BitVec 8

/-- A command word, a control register, a host data word (R13). -/
abbrev Word := BitVec 32

/-- The content of an operand register: an unsigned 256-bit integer (R13, R22). -/
abbrev Value := BitVec 256

/-- A register index of a command word (R13, R90). -/
abbrev Index := BitVec 4

/-- A byte offset of the core's 1 KiB window (R60, R61). -/
abbrev Offset := BitVec 10

/-- Jacobian coordinates (X, Y, Z) as exact integers: x = X / Z^2, y = Y / Z^3, and every Z = 0 is the
identity (spec/10_state.md R24). -/
structure Triple where
  x : Nat
  y : Nat
  z : Nat
deriving DecidableEq, Repr

/-- The canonical identity (0, 0, 0) (R24). -/
def Triple.identity : Triple := ⟨0, 0, 0⟩

end Sys2Proof
end

