-- ==== Sys2Proof/Config.lean ====
section
/-! DEFINITION. What is fixed for the core: the constants of spec/00_scope.md R7 to R9, the identification word of
spec/10_state.md R31, and the one open parameter the step consults, `DRAW_LIMIT` (R11). They are not state (R21). -/

namespace Sys2Proof.Config

/-- The field prime 2^256 - 2^224 + 2^192 + 2^96 - 1 (R7, R8). -/
def p : Nat := 0xffffffff00000001000000000000000000000000ffffffffffffffffffffffff

/-- The curve coefficient -3 mod p (R7). -/
def a : Nat := p - 3

/-- The order of the group, `P256_N` (R9). -/
def n : Nat := 0xffffffff00000000ffffffffffffffffbce6faada7179e84f3b9cac2fc632551

/-- The constant of the curve equation, `P256_B` (R9). -/
def b : Nat := 0x5ac635d8aa3a93e7b3ebbd55769886bc651d06b0cc53b0f63bce3c3e27d2604b

/-- The base point's x, `P256_GX` (R9). -/
def gx : Nat := 0x6b17d1f2e12c4247f8bce6e563a440f277037d812deb33a0f4a13945d898c296

/-- The base point's y, `P256_GY` (R9). -/
def gy : Nat := 0x4fe342e2fe1a7f9b8ee7eb4a7c0f9e162bce33576b315ececbb6406837bf51f5

/-- The base point G as the triple (Gx, Gy, 1) (spec/44_ecdsa.md, opening). -/
def g : Triple := ⟨gx, gy, 1⟩

/-- What `ID` reads: the ASCII bytes "P256" (R31). -/
def idWord : Word := 0x50323536#32

/-- The range of `DRAW_LIMIT`: a positive integer, or unbounded (`none`) (R11, R139). -/
abbrev DrawLimit := Option { k : Nat // 0 < k }

/-- `DRAW_LIMIT`, the open parameter of R11 and R139: a constant with no body, so that nothing proved of the
model depends on which bound an implementation has (DESIGN CHOICE, log entry 3; safe). -/
opaque drawLimit : DrawLimit

end Sys2Proof.Config
end

