-- ==== Sys2Proof/Syntax.lean ====
section
/-! DEFINITION. The 23 commands of the core, one constructor per row of spec/opcode_table.json (spec/30_encoding.md
R93), with the index fields each row uses, destination first (R97). -/

namespace Sys2Proof

/-- A command. A field is a 4-bit register index (R91); what it names (`reg` one register, `point` a triple, `pair`
two registers) is the row's, and `Instr.wellFormed` holds the index limits. -/
inductive Instr where
  /-- NOP: do nothing; no operand (R210). -/
  | nop
  /-- FADD: addition modulo p; rd reg, ra reg, rb reg (R112). -/
  | fadd (rd ra rb : Index)
  /-- FSUB: subtraction modulo p; rd reg, ra reg, rb reg (R113). -/
  | fsub (rd ra rb : Index)
  /-- FMUL: multiplication modulo p; rd reg, ra reg, rb reg (R114). -/
  | fmul (rd ra rb : Index)
  /-- FSQR: squaring modulo p; rd reg, ra reg (R115). -/
  | fsqr (rd ra : Index)
  /-- FINV: inverse modulo p; rd reg, ra reg (R116). -/
  | finv (rd ra : Index)
  /-- NADD: addition modulo n; rd reg, ra reg, rb reg (R132). -/
  | nadd (rd ra rb : Index)
  /-- NSUB: subtraction modulo n; rd reg, ra reg, rb reg (R133). -/
  | nsub (rd ra rb : Index)
  /-- NMUL: multiplication modulo n; rd reg, ra reg, rb reg (R134). -/
  | nmul (rd ra rb : Index)
  /-- NSQR: squaring modulo n; rd reg, ra reg (R135). -/
  | nsqr (rd ra : Index)
  /-- NINV: inverse modulo n; rd reg, ra reg (R136). -/
  | ninv (rd ra : Index)
  /-- NRED: reduction of a 256-bit value modulo n; rd reg, ra reg (R137). -/
  | nred (rd ra : Index)
  /-- NRAND: a uniform scalar from the entropy source; rd reg (R140). -/
  | nrand (rd : Index)
  /-- PDBL: Jacobian point doubling; rd point, ra point (R152). -/
  | pdbl (rd ra : Index)
  /-- PADD: Jacobian point addition; rd point, ra point, rb point (R154). -/
  | padd (rd ra rb : Index)
  /-- PMUL: scalar multiplication, affine result; rd point, ra reg, rb point (R157). -/
  | pmul (rd ra rb : Index)
  /-- PCHK: on-curve test; ra point (R160). -/
  | pchk (ra : Index)
  /-- PAFF: conversion to affine form; rd point, ra point (R162). -/
  | paff (rd ra : Index)
  /-- PDEC: decode a compressed public key; rd point, ra reg (R182). -/
  | pdec (rd ra : Index)
  /-- PENC: encode a public key; rd reg, ra point (R184). -/
  | penc (rd ra : Index)
  /-- KEYGEN: generate a key pair; rd pair (R192). -/
  | keygen (rd : Index)
  /-- SIGN: produce a signature; rd pair, ra reg, rb reg (R194). -/
  | sign (rd ra rb : Index)
  /-- VERIFY: verify a signature; ra reg, rb reg, rc pair (R197). -/
  | verify (ra rb rc : Index)
deriving DecidableEq, Repr

/-- The mnemonic of the row, as R93 spells it. -/
def Instr.mnemonic : Instr → String
  | .nop => "NOP"
  | .fadd _ _ _ => "FADD"
  | .fsub _ _ _ => "FSUB"
  | .fmul _ _ _ => "FMUL"
  | .fsqr _ _ => "FSQR"
  | .finv _ _ => "FINV"
  | .nadd _ _ _ => "NADD"
  | .nsub _ _ _ => "NSUB"
  | .nmul _ _ _ => "NMUL"
  | .nsqr _ _ => "NSQR"
  | .ninv _ _ => "NINV"
  | .nred _ _ => "NRED"
  | .nrand _ => "NRAND"
  | .pdbl _ _ => "PDBL"
  | .padd _ _ _ => "PADD"
  | .pmul _ _ _ => "PMUL"
  | .pchk _ => "PCHK"
  | .paff _ _ => "PAFF"
  | .pdec _ _ => "PDEC"
  | .penc _ _ => "PENC"
  | .keygen _ => "KEYGEN"
  | .sign _ _ _ => "SIGN"
  | .verify _ _ _ => "VERIFY"

end Sys2Proof
end

