-- ==== Sys2Proof/WellFormed.lean ====
section
/-! DEFINITION. The index limits of a command (spec/30_encoding.md R91, R96 d and e; spec/10_state.md R24, R25). A
`reg` field has no limit: every 4-bit index names a register (R91). -/

namespace Sys2Proof

/-- A `point` index leaves room for the two registers after it (R24). -/
def pointIndexOk (i : Index) : Bool := i.toNat ≤ 13

/-- A `pair` index leaves room for the register after it (R25). -/
def pairIndexOk (i : Index) : Bool := i.toNat ≤ 14

/-- Every index field of the command is in the range its kind allows (R91). -/
def Instr.wellFormed : Instr → Bool
  | .nop => true
  | .fadd _ _ _ => true
  | .fsub _ _ _ => true
  | .fmul _ _ _ => true
  | .fsqr _ _ => true
  | .finv _ _ => true
  | .nadd _ _ _ => true
  | .nsub _ _ _ => true
  | .nmul _ _ _ => true
  | .nsqr _ _ => true
  | .ninv _ _ => true
  | .nred _ _ => true
  | .nrand _ => true
  | .pdbl rd ra => pointIndexOk rd && pointIndexOk ra
  | .padd rd ra rb => pointIndexOk rd && pointIndexOk ra && pointIndexOk rb
  | .pmul rd _ rb => pointIndexOk rd && pointIndexOk rb
  | .pchk ra => pointIndexOk ra
  | .paff rd ra => pointIndexOk rd && pointIndexOk ra
  | .pdec rd _ => pointIndexOk rd
  | .penc _ ra => pointIndexOk ra
  | .keygen rd => pairIndexOk rd
  | .sign rd _ _ => pairIndexOk rd
  | .verify _ _ rc => pairIndexOk rc

end Sys2Proof
end

