-- ==== Sys2Proof/Decode.lean ====
section
/-! DEFINITION. Decoding and encoding of command words (spec/30_encoding.md R90 to R96). Decoding is total: each of
the 2^32 words is a command or is illegal under one of the names of R96 (R95). -/

namespace Sys2Proof

/-- Why a word is no command: the clauses (a) to (e) of R96. A word that several clauses reject is reported under one
of them; the machine reports every one as the same outcome (R225). -/
inductive Illegal where
  /-- (a) `op` is not one of the 23 values. -/
  | opcode
  /-- (b) bits [7:0] are not 0. -/
  | zeroByte
  /-- (c) a field the command does not use is not 0. -/
  | unusedField
  /-- (d) a point field is above 13. -/
  | pointIndex
  /-- (e) a pair field is 15. -/
  | pairIndex
deriving DecidableEq, Repr

/-- `op`, bits 31:24 (R90). -/
def opField (w : Word) : BitVec 8 := w.extractLsb' 24 8
/-- `rd`, bits 23:20 (R90). -/
def rdField (w : Word) : Index := w.extractLsb' 20 4
/-- `ra`, bits 19:16 (R90). -/
def raField (w : Word) : Index := w.extractLsb' 16 4
/-- `rb`, bits 15:12 (R90). -/
def rbField (w : Word) : Index := w.extractLsb' 12 4
/-- `rc`, bits 11:8 (R90). -/
def rcField (w : Word) : Index := w.extractLsb' 8 4
/-- `zero`, bits 7:0 (R90). -/
def zeroField (w : Word) : Byte := w.extractLsb' 0 8

/-- One row of the opcode map, once its `op` is found: the fields it does not use, its point fields and its pair
fields are checked (R91, R96 c to e). -/
def decodeRow (unused points pairs : List Index) (i : Instr) : Except Illegal Instr :=
  if unused.any (· != 0#4) then .error .unusedField
  else if points.any (fun k => 13 < k.toNat) then .error .pointIndex
  else if pairs.any (fun k => 14 < k.toNat) then .error .pairIndex
  else .ok i

/-- The command a word stands for, or why it is illegal (R93, R95, R96). -/
def decode (w : Word) : Except Illegal Instr :=
  if zeroField w ≠ 0#8 then .error .zeroByte else
  let rd := rdField w
  let ra := raField w
  let rb := rbField w
  let rc := rcField w
  match (opField w).toNat with
  | 0x00 => decodeRow [rd, ra, rb, rc] [] [] .nop
  | 0x01 => decodeRow [rc] [] [] (.fadd rd ra rb)
  | 0x02 => decodeRow [rc] [] [] (.fsub rd ra rb)
  | 0x03 => decodeRow [rc] [] [] (.fmul rd ra rb)
  | 0x04 => decodeRow [rb, rc] [] [] (.fsqr rd ra)
  | 0x05 => decodeRow [rb, rc] [] [] (.finv rd ra)
  | 0x11 => decodeRow [rc] [] [] (.nadd rd ra rb)
  | 0x12 => decodeRow [rc] [] [] (.nsub rd ra rb)
  | 0x13 => decodeRow [rc] [] [] (.nmul rd ra rb)
  | 0x14 => decodeRow [rb, rc] [] [] (.nsqr rd ra)
  | 0x15 => decodeRow [rb, rc] [] [] (.ninv rd ra)
  | 0x16 => decodeRow [rb, rc] [] [] (.nred rd ra)
  | 0x17 => decodeRow [ra, rb, rc] [] [] (.nrand rd)
  | 0x21 => decodeRow [rb, rc] [rd, ra] [] (.pdbl rd ra)
  | 0x22 => decodeRow [rc] [rd, ra, rb] [] (.padd rd ra rb)
  | 0x23 => decodeRow [rc] [rd, rb] [] (.pmul rd ra rb)
  | 0x24 => decodeRow [rd, rb, rc] [ra] [] (.pchk ra)
  | 0x25 => decodeRow [rb, rc] [rd, ra] [] (.paff rd ra)
  | 0x26 => decodeRow [rb, rc] [rd] [] (.pdec rd ra)
  | 0x27 => decodeRow [rb, rc] [ra] [] (.penc rd ra)
  | 0x31 => decodeRow [ra, rb, rc] [] [rd] (.keygen rd)
  | 0x32 => decodeRow [rc] [] [rd] (.sign rd ra rb)
  | 0x33 => decodeRow [rd] [] [rc] (.verify ra rb rc)
  | _ => .error .opcode

/-- The word of format `C` with these fields; bits [7:0] are 0 (R90). -/
def wordOf (op : BitVec 8) (rd ra rb rc : Index) : Word := op ++ rd ++ ra ++ rb ++ rc ++ 0#8

/-- The word of a command (R93); unused fields are 0 (R91). -/
def encode : Instr → Word
  | .nop => wordOf 0x00#8 0#4 0#4 0#4 0#4
  | .fadd rd ra rb => wordOf 0x01#8 rd ra rb 0#4
  | .fsub rd ra rb => wordOf 0x02#8 rd ra rb 0#4
  | .fmul rd ra rb => wordOf 0x03#8 rd ra rb 0#4
  | .fsqr rd ra => wordOf 0x04#8 rd ra 0#4 0#4
  | .finv rd ra => wordOf 0x05#8 rd ra 0#4 0#4
  | .nadd rd ra rb => wordOf 0x11#8 rd ra rb 0#4
  | .nsub rd ra rb => wordOf 0x12#8 rd ra rb 0#4
  | .nmul rd ra rb => wordOf 0x13#8 rd ra rb 0#4
  | .nsqr rd ra => wordOf 0x14#8 rd ra 0#4 0#4
  | .ninv rd ra => wordOf 0x15#8 rd ra 0#4 0#4
  | .nred rd ra => wordOf 0x16#8 rd ra 0#4 0#4
  | .nrand rd => wordOf 0x17#8 rd 0#4 0#4 0#4
  | .pdbl rd ra => wordOf 0x21#8 rd ra 0#4 0#4
  | .padd rd ra rb => wordOf 0x22#8 rd ra rb 0#4
  | .pmul rd ra rb => wordOf 0x23#8 rd ra rb 0#4
  | .pchk ra => wordOf 0x24#8 0#4 ra 0#4 0#4
  | .paff rd ra => wordOf 0x25#8 rd ra 0#4 0#4
  | .pdec rd ra => wordOf 0x26#8 rd ra 0#4 0#4
  | .penc rd ra => wordOf 0x27#8 rd ra 0#4 0#4
  | .keygen rd => wordOf 0x31#8 rd 0#4 0#4 0#4
  | .sign rd ra rb => wordOf 0x32#8 rd ra rb 0#4
  | .verify ra rb rc => wordOf 0x33#8 0#4 ra rb rc

/-- The `mask` column of R93. -/
def rowMask : Instr → Word
  | .nop => 0xFFFFFFFF#32
  | .fadd _ _ _ => 0xFF000FFF#32
  | .fsub _ _ _ => 0xFF000FFF#32
  | .fmul _ _ _ => 0xFF000FFF#32
  | .fsqr _ _ => 0xFF00FFFF#32
  | .finv _ _ => 0xFF00FFFF#32
  | .nadd _ _ _ => 0xFF000FFF#32
  | .nsub _ _ _ => 0xFF000FFF#32
  | .nmul _ _ _ => 0xFF000FFF#32
  | .nsqr _ _ => 0xFF00FFFF#32
  | .ninv _ _ => 0xFF00FFFF#32
  | .nred _ _ => 0xFF00FFFF#32
  | .nrand _ => 0xFF0FFFFF#32
  | .pdbl _ _ => 0xFF00FFFF#32
  | .padd _ _ _ => 0xFF000FFF#32
  | .pmul _ _ _ => 0xFF000FFF#32
  | .pchk _ => 0xFFF0FFFF#32
  | .paff _ _ => 0xFF00FFFF#32
  | .pdec _ _ => 0xFF00FFFF#32
  | .penc _ _ => 0xFF00FFFF#32
  | .keygen _ => 0xFF0FFFFF#32
  | .sign _ _ _ => 0xFF000FFF#32
  | .verify _ _ _ => 0xFFF000FF#32

/-- The `match` column of R93. -/
def rowMatch : Instr → Word
  | .nop => 0x00000000#32
  | .fadd _ _ _ => 0x01000000#32
  | .fsub _ _ _ => 0x02000000#32
  | .fmul _ _ _ => 0x03000000#32
  | .fsqr _ _ => 0x04000000#32
  | .finv _ _ => 0x05000000#32
  | .nadd _ _ _ => 0x11000000#32
  | .nsub _ _ _ => 0x12000000#32
  | .nmul _ _ _ => 0x13000000#32
  | .nsqr _ _ => 0x14000000#32
  | .ninv _ _ => 0x15000000#32
  | .nred _ _ => 0x16000000#32
  | .nrand _ => 0x17000000#32
  | .pdbl _ _ => 0x21000000#32
  | .padd _ _ _ => 0x22000000#32
  | .pmul _ _ _ => 0x23000000#32
  | .pchk _ => 0x24000000#32
  | .paff _ _ => 0x25000000#32
  | .pdec _ _ => 0x26000000#32
  | .penc _ _ => 0x27000000#32
  | .keygen _ => 0x31000000#32
  | .sign _ _ _ => 0x32000000#32
  | .verify _ _ _ => 0x33000000#32

/-- What the decoder reads from the `nbits` low bits `w` of a command word, the bits above them 0. A command is one
32-bit data word (R90), so nothing is laid out in bytes before decoding (R80). -/
def decodeTableWord (nbits w : Nat) : Option Instr :=
  match decode (BitVec.ofNat 32 (w % 2 ^ nbits)) with
  | .ok i => some i
  | .error _ => none

end Sys2Proof
end

