-- ==== Sys2Proof/Machine/State.lean ====
section
/-! DEFINITION. The state of the core as plain data (spec/10_state.md R20 to R41), what its surroundings do to it, and
the state after reset. -/

namespace Sys2Proof.Machine

/-- The failing outcomes of a command (spec/60_exceptions.md R221, codes 1 to 5). They are results of a step, not stops
of the model: every command completes (R220). -/
inductive Failure where
  /-- A draw was answered `unavailable`, or the draw limit is reached (R222). -/
  | randomUnavailable
  /-- A source is outside the range its reader requires, PMUL's base is off the curve, PENC's point is the
  identity (R223). -/
  | invalidOperand
  /-- VERIFY rejects the signature (R221, spec/44_ecdsa.md R197). -/
  | invalidSignature
  /-- A key buffer does not decode (R221, spec/43_codec.md R182). -/
  | malformedEncoding
  /-- The word is not a command (R225). -/
  | illegalCommand
deriving DecidableEq, Repr

/-- The three flags of `FLAGS` (spec/10_state.md R29, R35). -/
structure Flags where
  z : Bool
  inf : Bool
  t : Bool
deriving DecidableEq, Repr

/-- One answer of the entropy source (spec/60_exceptions.md R236). -/
inductive Draw where
  | value (v : Value)
  | unavailable
deriving DecidableEq, Repr

/-- The hidden execution state of a running command (spec/10_state.md R39): the sources sampled at acceptance
(spec/20_memory.md R74), the draw count (spec/41_scalar.md R139) and the answered draw not yet used. -/
structure Hidden where
  regs : Vector Value 16
  pktag : Byte
  draws : Nat
  drawn : Option Draw
deriving DecidableEq, Repr

/-- One transaction of the host port: byte offset, size in bytes and, for a write, the data word (R61). -/
inductive Transaction where
  | read (a : Offset) (size : Nat)
  | write (a : Offset) (size : Nat) (v : Word)
deriving DecidableEq, Repr

/-- The response of the host port (R61). -/
inductive Resp where
  | okay
  | error
deriving DecidableEq, Repr

/-- What the host port answers: a response, and for a read a data word (R61). -/
inductive PortAnswer where
  | read (r : Resp) (data : Word)
  | write (r : Resp)
deriving DecidableEq, Repr

/-- One atomic step of the system of R77: who moves, and what the outside world brings. -/
inductive Event where
  /-- The core's own turn: a running command draws or completes. -/
  | core
  /-- The host port delivers a transaction (R61). -/
  | host (t : Transaction)
  /-- The entropy source drives `rng_valid`, `rng_fail` and `rng_data` (spec/60_exceptions.md R236). -/
  | entropy (valid fail : Bool) (data : Value)
  /-- A cycle with `rst` = 1, and the transaction the host starts in it, if it breaks the duty of
  spec/70_reset_and_hazards.md R261. -/
  | reset (started : Option Transaction)
deriving DecidableEq, Repr

/-- What an offset of the window holds (R30, R65, R66): a control register, or word `j` of operand register `i`. -/
inductive Mapped where
  | id
  | cmd
  | status
  | flags
  | ctrl
  | fsticky
  | pktag
  | operand (i : Index) (j : Fin 8)
deriving DecidableEq, Repr

/-- The sequencer phase (spec/10_state.md R28). -/
inductive Phase where
  | idle
  | run
  | wait
deriving DecidableEq, Repr

/-- Everything R20 gives the core, and two fields of the model's own: `agenda`, the coming events, and `portAnswer`,
what the host port answered last. -/
structure State where
  /-- r0 to r15 (R22). -/
  regs : Vector Value 16
  /-- `PKTAG[7:0]` (R38). -/
  pktag : Byte
  /-- `CMD`, the last accepted command word (R32). -/
  cmd : Word
  /-- `STATUS.BUSY` (R33). -/
  busy : Bool
  /-- `STATUS.DONE` (R33). -/
  done : Bool
  /-- `STATUS.RNGWAIT` (R33). -/
  rngwait : Bool
  /-- `STATUS.OUTCOME` (R33). -/
  outcome : BitVec 4
  /-- `FLAGS` (R35). -/
  flags : Flags
  /-- `CTRL.IE` (R36). -/
  ie : Bool
  /-- `FSTICKY` (R37). -/
  fsticky : Word
  /-- The hidden execution state, held while a command runs (R39). -/
  hidden : Option Hidden
  /-- The model's own: the coming events, first to happen first (log entry 1). -/
  agenda : List Event
  /-- The model's own: the host port's answer to the last transaction (log entry 6). -/
  portAnswer : Option PortAnswer
deriving DecidableEq, Repr

/-- Why a step could stop with a fault: nothing. Every transaction, word and operand value has a defined effect, and a
failing command completes with an outcome (spec/70_reset_and_hazards.md R271, spec/60_exceptions.md R220); safe, since no
behaviour of the core is cut short. -/
inductive Fault where
deriving DecidableEq, Repr

/-- Why a step is refused. -/
inductive Refusal where
  /-- Raised by `exec`'s arm of a command that has no meaning yet; safe (the model stops). No arm raises it now. -/
  | notModelled (mnemonic : String)
  /-- Raised by `step` when the host starts a transaction in a cycle with `rst` = 1, which R261 forbids and
  spec/93_implementation_defined.md U15 says to refuse; safe (the model stops). -/
  | hostDuringReset
deriving DecidableEq, Repr

/-- What a meaning answers. -/
abbrev Result := Host.Outcome State Fault Refusal

/-- The machine right after reset (R41), nothing coming and nothing answered. -/
def State.reset : State where
  regs := Vector.replicate 16 0
  pktag := 0
  cmd := 0
  busy := false
  done := false
  rngwait := false
  outcome := 0
  flags := ⟨false, false, false⟩
  ie := false
  fsticky := 0
  hidden := none
  agenda := []
  portAnswer := none

end Sys2Proof.Machine
end

