-- ==== Sys2Proof/Machine/Modular.lean ====
section
/-! DEFINITION. Exact arithmetic modulo m on unsigned integers (spec/40_field.md R117, spec/41_scalar.md R141): the
integer result, then its one representative in [0, m). -/

namespace Sys2Proof.Machine

/-- (a + b) mod m (R112, R132). -/
def addMod (m a b : Nat) : Nat := (a + b) % m

/-- (a - b) mod m, for b at most m (R113, R133). -/
def subMod (m a b : Nat) : Nat := (a + m - b) % m

/-- (a * b) mod m, of the exact product (R114, R134). -/
def mulMod (m a b : Nat) : Nat := a * b % m

/-- (a * a) mod m (R115, R135). -/
def sqrMod (m a : Nat) : Nat := a * a % m

/-- a^e mod m for e below 2^k, by k squarings. -/
def powModBits (m : Nat) : Nat → Nat → Nat → Nat
  | 0, _, _ => 1 % m
  | k + 1, a, e =>
    if e % 2 = 1 then a * powModBits m k (a * a % m) (e / 2) % m
    else powModBits m k (a * a % m) (e / 2)

/-- a^e mod m for a 256-bit exponent. -/
def powMod (m a e : Nat) : Nat := powModBits m 256 a e

/-- a^(m-2) mod m: for a prime m the inverse of a nonzero a, and 0 for 0 (R116, R136). -/
def invMod (m a : Nat) : Nat := powMod m a (m - 2)

end Sys2Proof.Machine
end

