-- ==== Sys2Proof/Machine/Curve.lean ====
section
/-! DEFINITION. The curve in Jacobian coordinates (spec/42_point.md R152 to R162, spec/43_codec.md R181). All
arithmetic is in the field: each operation below is followed by `mod p`. -/

namespace Sys2Proof.Machine

/-- Field addition. -/
def fadd (a b : Nat) : Nat := addMod Config.p a b
/-- Field subtraction. -/
def fsub (a b : Nat) : Nat := subMod Config.p a b
/-- Field multiplication. -/
def fmul (a b : Nat) : Nat := mulMod Config.p a b
/-- Field squaring. -/
def fsqr (a : Nat) : Nat := sqrMod Config.p a

/-- `Dbl`: Jacobian doubling for a = -3 (R152). -/
def dbl (t : Triple) : Triple :=
  if t.z = 0 ∨ t.y = 0 then Triple.identity else
  let yy := fsqr t.y
  let zz := fsqr t.z
  let s := fmul 4 (fmul t.x yy)
  let m := fmul 3 (fmul (fsub t.x zz) (fadd t.x zz))
  let x3 := fsub (fsqr m) (fmul 2 s)
  let y3 := fsub (fmul m (fsub s x3)) (fmul 8 (fsqr yy))
  let z3 := fmul 2 (fmul t.y t.z)
  ⟨x3, y3, z3⟩

/-- The general case of `Add`, with U1, U2, S1, S2, H and R already computed (R154). -/
def addGeneral (u1 s1 h r z1 z2 : Nat) : Triple :=
  let hh := fsqr h
  let hhh := fmul hh h
  let v := fmul u1 hh
  let x3 := fsub (fsub (fsqr r) hhh) (fmul 2 v)
  let y3 := fsub (fmul r (fsub v x3)) (fmul s1 hhh)
  let z3 := fmul h (fmul z1 z2)
  ⟨x3, y3, z3⟩

/-- `Add`: Jacobian addition with its special cases, in their order (R154). -/
def add (t1 t2 : Triple) : Triple :=
  if t1.z = 0 ∧ t2.z = 0 then Triple.identity
  else if t1.z = 0 then t2
  else if t2.z = 0 then t1
  else
    let zz1 := fsqr t1.z
    let zz2 := fsqr t2.z
    let u1 := fmul t1.x zz2
    let u2 := fmul t2.x zz1
    let s1 := fmul t1.y (fmul zz2 t2.z)
    let s2 := fmul t2.y (fmul zz1 t1.z)
    let h := fsub u2 u1
    let r := fsub s2 s1
    if h = 0 ∧ r = 0 then dbl t1
    else if h = 0 then Triple.identity
    else addGeneral u1 s1 h r t1.z t2.z

/-- The turns `i - 1` down to 0 of the double-and-add-always loop, from the accumulator `acc` (R158). -/
def scalarMulFrom (k : Nat) (t : Triple) : Nat → Triple → Triple
  | 0, acc => acc
  | i + 1, acc =>
    let d := dbl acc
    let sum := add d t
    scalarMulFrom k t i (if k.testBit i then sum else d)

/-- `ScalarMul(k, T)`: 256 turns from the identity (R158). -/
def scalarMul (k : Nat) (t : Triple) : Triple := scalarMulFrom k t 256 Triple.identity

/-- `Aff`: the affine form (x, y, 1), or the canonical identity (R162). -/
def aff (t : Triple) : Triple :=
  if t.z = 0 then Triple.identity else
  let zi := invMod Config.p t.z
  let zi2 := fsqr zi
  ⟨fmul t.x zi2, fmul t.y (fmul zi2 zi), 1⟩

/-- Every coordinate is a FieldElement (R151). -/
def inRange (t : Triple) : Bool := t.x < Config.p && t.y < Config.p && t.z < Config.p

/-- Y^2 = X^3 - 3 X Z^4 + b Z^6 (R153, R157, R160). -/
def satisfiesEquation (t : Triple) : Bool :=
  let z2 := fsqr t.z
  let z4 := fsqr z2
  let z6 := fmul z4 z2
  let x3 := fmul (fsqr t.x) t.x
  fsqr t.y == fadd (fsub x3 (fmul 3 (fmul t.x z4))) (fmul Config.b z6)

/-- x^3 - 3 x + b (R181). -/
def curveRhs (x : Nat) : Nat := fadd (fsub (fmul (fsqr x) x) (fmul 3 x)) Config.b

/-- `RecoverY(x, t)`: the root of x^3 - 3 x + b of parity `t`, found by the exponent (p + 1) / 4 (R181). A root 0 has
parity 0 only. -/
def recoverY (x t : Nat) : Option Nat :=
  let w := curveRhs x
  let y := powMod Config.p w ((Config.p + 1) / 4)
  if fsqr y ≠ w then none
  else if y % 2 = t then some y
  else if y = 0 then none
  else some (Config.p - y)

end Sys2Proof.Machine
end

