-- ==== Sys2Proof/Machine/Operands.lean ====
section
/-! DEFINITION. The operand forms of a command: one register, a point (three registers), a pair (two registers), and
`PKTAG` (spec/10_state.md R22 to R25, R38; spec/30_encoding.md R91). Sources are the copies sampled at acceptance
(spec/20_memory.md R74); destinations are the registers themselves. -/

namespace Sys2Proof.Machine

/-- What acceptance samples: every register and `PKTAG`, with no draw made yet (R73, R74). -/
def State.sample (s : State) : Hidden := ⟨s.regs, s.pktag, 0, none⟩

/-- The hidden state of the running command. In a state in which none is held no command runs; there it stands for
what acceptance would sample, so that a meaning is a total function of the state. -/
def State.held (s : State) : Hidden := s.hidden.getD s.sample

/-- Source `r[i]` of a command (R14, R74). -/
def State.source (s : State) (i : Index) : Value := s.held.regs[i.toNat]

/-- Source `P[i]`: the triple (r[i], r[i+1], r[i+2]) (R24). -/
def State.sourcePoint (s : State) (i : Index) : Triple :=
  ⟨(s.source i).toNat, (s.source (i + 1)).toNat, (s.source (i + 2)).toNat⟩

/-- Source `PKTAG[7:0]` (R74). -/
def State.sourceTag (s : State) : Byte := s.held.pktag

/-- The value of operand register i (R22). -/
def State.reg (s : State) (i : Index) : Value := s.regs[i.toNat]

/-- r[i] <- v (R14). -/
def State.setReg (s : State) (i : Index) (v : Value) : State := { s with regs := s.regs.set i.toNat v }

/-- P[i] <- (X, Y, Z) (R24). -/
def State.setPoint (s : State) (i : Index) (t : Triple) : State :=
  ((s.setReg i (BitVec.ofNat 256 t.x)).setReg (i + 1) (BitVec.ofNat 256 t.y)).setReg (i + 2) (BitVec.ofNat 256 t.z)

/-- S[i] <- (u, v) (R25). -/
def State.setPair (s : State) (i : Index) (u v : Nat) : State :=
  (s.setReg i (BitVec.ofNat 256 u)).setReg (i + 1) (BitVec.ofNat 256 v)

/-- PKTAG <- t (R38). -/
def State.setTag (s : State) (t : Byte) : State := { s with pktag := t }

/-- The compressed tag of a y: 0x02 for even, 0x03 for odd (spec/43_codec.md R180, R184). -/
def tagOf (y : Nat) : Byte := if y % 2 = 1 then 0x03#8 else 0x02#8

/-- A tag PDEC and VERIFY accept (R182, R197). -/
def tagOk (t : Byte) : Bool := t == 0x02#8 || t == 0x03#8

end Sys2Proof.Machine
end

