-- ==== Sys2Proof/Machine/Flags.lean ====
section
/-! DEFINITION. The flag values commands give (spec/10_state.md R29). A flag a rule does not mention gets 0. -/

namespace Sys2Proof.Machine

/-- All three flags 0. -/
def flagsClear : Flags := ⟨false, false, false⟩

/-- Z from a FieldElement or Scalar result (R112 to R116, R132 to R137). -/
def flagsOfResidue (v : Nat) : Flags := ⟨v == 0, false, false⟩

/-- INF from a point result: is it the canonical identity (R152, R154, R157, R162). -/
def flagsOfPoint (t : Triple) : Flags := ⟨false, t == Triple.identity, false⟩

/-- T and INF of the on-curve test (R160). -/
def flagsOfCheck (t : Triple) : Flags := ⟨false, t.z == 0, t.z != 0 && satisfiesEquation t⟩

/-- T of an accepted signature (R197). -/
def flagsValid : Flags := ⟨false, false, true⟩

/-- The `FLAGS` register's word: bit 0 Z, bit 1 INF, bit 2 T (R35, R67). -/
def flagsWord (f : Flags) : Word := 0#29 ++ BitVec.ofBool f.t ++ BitVec.ofBool f.inf ++ BitVec.ofBool f.z

end Sys2Proof.Machine
end

