-- ==== Sys2Proof/Machine/Ops.lean ====
section
/-! DEFINITION. The atomic operations every command is built from: acceptance, completion, `raise`, the draw
(spec/20_memory.md R73, R76; spec/60_exceptions.md R224, R236; spec/41_scalar.md R138), and reset
(spec/70_reset_and_hazards.md R261, R262). -/

namespace Sys2Proof.Machine

/-- The outcome code of a failure (R221). -/
def failureCode : Failure → BitVec 4
  | .randomUnavailable => 1
  | .invalidOperand => 2
  | .invalidSignature => 3
  | .malformedEncoding => 4
  | .illegalCommand => 5

/-- Acceptance of the command word w (R73): the sources are sampled, the draw count is 0. It is also what takes the
place of a return from an outcome: `OUTCOME` and `DONE` go back to 0 (spec/60_exceptions.md R233). -/
def State.accept (s : State) (w : Word) : State :=
  { s with cmd := w, busy := true, done := false, outcome := 0, rngwait := false, hidden := some s.sample }

/-- The part of the completion step both kinds share: `OUTCOME`, `DONE`, `BUSY`, `RNGWAIT`, and the hidden state
discarded (R76). -/
def State.finish (s : State) (code : BitVec 4) : State :=
  { s with outcome := code, done := true, busy := false, rngwait := false, hidden := none }

/-- `done(OK)` after the destination writes: the flags and outcome 0 (R76). -/
def State.complete (s : State) (f : Flags) : State := State.finish { s with flags := f } 0

/-- `raise`: the completion step with a failing outcome. No operand register and not `PKTAG` is written; the flags
become 0 and the sticky bit of the code is set (R224, R76). This is the core's taking of an exception (R232). -/
def State.raise (s : State) (f : Failure) : State :=
  State.finish { s with flags := flagsClear, fsticky := s.fsticky ||| (1#32 <<< (failureCode f).toNat) } (failureCode f)

/-- Completion of a command whose result is one residue in r[rd], with Z (R112 to R116, R132 to R137). -/
def State.completeResidue (s : State) (rd : Index) (v : Nat) : State :=
  (s.setReg rd (BitVec.ofNat 256 v)).complete (flagsOfResidue v)

/-- Completion of a command whose result is a point in P[rd], with INF (R152, R154, R157, R162). -/
def State.completePoint (s : State) (rd : Index) (t : Triple) : State :=
  (s.setPoint rd t).complete (flagsOfPoint t)

/-- Has the command used up its draws: `draws = DRAW_LIMIT` (R138, R139). -/
def limitReached (limit : Config.DrawLimit) : Nat → Bool
  | 0 => false
  | d + 1 => match limit with
    | none => false
    | some k => d + 1 == k.val

/-- One call of `Draw()`: the count goes up and the core waits for the source, phase WAIT (R138, R236). -/
def State.requestDraw (s : State) : State :=
  { s with rngwait := true, hidden := some { s.held with draws := s.held.draws + 1, drawn := none } }

/-- The head of the sampler's loop: out of draws is `RandomUnavailable`, else another draw (R138). -/
def State.drawAgain (limit : Config.DrawLimit) (s : State) : State :=
  if limitReached limit s.held.draws then s.raise .randomUnavailable else s.requestDraw

/-- The sampler takes a drawn value only in [1, n - 1] (R138). -/
def drawAccepted (v : Value) : Bool := v != 0#256 && v.toNat < Config.n

/-- `NextScalar()` and what the command does with its value (R138): `attempt` answers the completed state, or `none`
where the command rejects the value and draws again (the r = 0 and s = 0 retries of SIGN, spec/44_ecdsa.md R194). -/
def State.nextScalar (limit : Config.DrawLimit) (attempt : Value → Option State) (s : State) : State :=
  match s.held.drawn with
  | none => s.drawAgain limit
  | some .unavailable => s.raise .randomUnavailable
  | some (.value v) =>
    if drawAccepted v then
      match attempt v with
      | some s' => s'
      | none => s.drawAgain limit
    else s.drawAgain limit

/-- A cycle of `rst`: the whole core takes its reset values (R41, R261). The agenda is no state of the core. -/
def State.hardReset (s : State) : State := { State.reset with agenda := s.agenda }

/-- A write of `CTRL.SRST`: exactly the effect of one cycle of `rst` (R262); the write itself is then answered. -/
def State.softReset (s : State) : State := s.hardReset

/-- The sequencer phase, from BUSY and RNGWAIT (R28). -/
def State.phase (s : State) : Phase :=
  if s.busy then (if s.rngwait then .wait else .run) else .idle

/-- The interrupt output (R230). -/
def irq (s : State) : Bool := s.done && s.ie

/-- The output `rng_req` of the entropy port: up exactly in phase WAIT (R236). -/
def rngReq (s : State) : Bool := s.rngwait

end Sys2Proof.Machine
end

