-- ==== Sys2Proof/Machine/Ports.lean ====
section
/-! DEFINITION. The host port and the entropy port: the address map and byte order (spec/20_memory.md R64 to R66),
`MemRead` and `MemWrite` (R67, R68), the busy rules (spec/70_reset_and_hazards.md R268 to R270) and the entropy
handshake (spec/60_exceptions.md R236). -/

namespace Sys2Proof.Machine

/-- What an aligned offset maps to (R30, R65, R66); none where nothing is mapped. -/
def mapped (a : Offset) : Option Mapped :=
  if a.toNat = 0x000 then some .id
  else if a.toNat = 0x004 then some .cmd
  else if a.toNat = 0x008 then some .status
  else if a.toNat = 0x00C then some .flags
  else if a.toNat = 0x010 then some .ctrl
  else if a.toNat = 0x014 then some .fsticky
  else if a.toNat = 0x018 then some .pktag
  else if 0x200 ≤ a.toNat then
    some (.operand (BitVec.ofNat 4 ((a.toNat - 0x200) / 32)) (Fin.ofNat 8 ((a.toNat - 0x200) / 4)))
  else none

/-- What a transaction addresses: nothing, unless it has size 4 and is aligned (R62, R63). -/
def target (a : Offset) (size : Nat) : Option Mapped :=
  if size = 4 ∧ a.toNat % 4 = 0 then mapped a else none

/-- Word j of a register, bits [255 - 32 j : 224 - 32 j]: word 0 is the most significant (R66). -/
def valueWord (v : Value) (j : Fin 8) : Word := v.extractLsb' (224 - 32 * j.val) 32

/-- The value with word j replaced and the other 224 bits kept (R66, R70). -/
def setValueWord (v : Value) (j : Fin 8) (w : Word) : Value :=
  (v &&& ~~~((BitVec.allOnes 32).setWidth 256 <<< (224 - 32 * j.val))) ||| (w.setWidth 256 <<< (224 - 32 * j.val))

/-- Byte t of a register, bits [255 - 8 t : 248 - 8 t] (R66). -/
def valueByte (v : Value) (t : Nat) : Byte := v.extractLsb' (248 - 8 * t) 8

/-- Byte t of a data word: the byte at the lowest offset is bits [31:24] (R64). -/
def wordByte (w : Word) (t : Nat) : Byte := w.extractLsb' (24 - 8 * t) 8

/-- The `STATUS` register's word (R33, R67). -/
def statusWord (s : State) : Word :=
  0#24 ++ s.outcome ++ 0#1 ++ BitVec.ofBool s.rngwait ++ BitVec.ofBool s.done ++ BitVec.ofBool s.busy

/-- The `CTRL` register's word: SRST reads 0 (R36, R67). -/
def ctrlWord (s : State) : Word := 0#31 ++ BitVec.ofBool s.ie

/-- The data word of a read of a mapped offset (R67): `PKTAG` and operand registers read 0 while BUSY (R270). -/
def readData (s : State) : Mapped → Word
  | .id => Config.idWord
  | .cmd => s.cmd
  | .status => statusWord s
  | .flags => flagsWord s.flags
  | .ctrl => ctrlWord s
  | .fsticky => s.fsticky
  | .pktag => if s.busy then 0#32 else s.pktag.setWidth 32
  | .operand i j => if s.busy then 0#32 else valueWord (s.reg i) j

/-- `FSTICKY[8] <- 1`, `BUSYVIOL` (R37, R268 to R270). -/
def State.violation (s : State) : State := { s with fsticky := s.fsticky ||| 0x100#32 }

/-- The side effect of a read: only a masked read of `PKTAG` or an operand register while BUSY has one (R67, R71). -/
def readEffect (s : State) : Mapped → State
  | .pktag => if s.busy then s.violation else s
  | .operand _ _ => if s.busy then s.violation else s
  | .id => s
  | .cmd => s
  | .status => s
  | .flags => s
  | .ctrl => s
  | .fsticky => s

/-- The implemented bits of `FSTICKY`: 1 to 5 and 8 (R37, R68). -/
def fstickyMask : Word := 0x0000013E#32

/-- The effect of a write of v to a mapped offset (R68). -/
def writeEffect (s : State) (v : Word) : Mapped → State
  | .id => s
  | .cmd => if s.busy then s.violation else s.accept v
  | .status => if v.getLsbD 1 then { s with done := false } else s
  | .flags => s
  | .ctrl => if v.getLsbD 1 then s.softReset else { s with ie := v.getLsbD 0 }
  | .fsticky => { s with fsticky := s.fsticky &&& ~~~(v &&& fstickyMask) }
  | .pktag => if s.busy then s.violation else s.setTag (v.setWidth 8)
  | .operand i j => if s.busy then s.violation else s.setReg i (setValueWord (s.reg i) j v)

/-- The port drives an answer (R61). -/
def State.respond (s : State) (a : PortAnswer) : State := { s with portAnswer := some a }

/-- `MemRead(A, size)` (R67). -/
def memRead (s : State) (a : Offset) (size : Nat) : State :=
  match target a size with
  | none => s.respond (.read .error 0#32)
  | some m => (readEffect s m).respond (.read .okay (readData s m))

/-- `MemWrite(A, size, v)` (R68). -/
def memWrite (s : State) (a : Offset) (size : Nat) (v : Word) : State :=
  match target a size with
  | none => s.respond (.write .error)
  | some m => (writeEffect s v m).respond (.write .okay)

/-- One transaction of the host port (R61). -/
def serve (s : State) : Transaction → State
  | .read a size => memRead s a size
  | .write a size v => memWrite s a size v

/-- What the entropy lines say: both asserted is a failure, neither is no answer (R236). -/
def drawOfLines (valid fail : Bool) (data : Value) : Option Draw :=
  if fail then some .unavailable else if valid then some (.value data) else none

/-- The entropy source drives its lines (R236): with a request up, an answer ends the wait; with none up the lines
are ignored (R261). -/
def entropyLines (s : State) (valid fail : Bool) (data : Value) : State :=
  if s.rngwait then
    match drawOfLines valid fail data with
    | none => s
    | some d => { s with rngwait := false, hidden := some { s.held with drawn := some d } }
  else s

end Sys2Proof.Machine
end

