-- ==== Sys2Proof/Machine/Codec.lean ====
section
/-! DEFINITION. The public-key codec commands (spec/43_codec.md). -/

namespace Sys2Proof.Machine

/-- The affine point of a compressed public key, none where it does not decode: a bad tag, an x that is no
FieldElement, no y for this x (R182; steps 2 of VERIFY, spec/44_ecdsa.md R197). -/
def decodeKey (tag : Byte) (x : Value) : Option Triple :=
  if !tagOk tag then none
  else if Config.p ≤ x.toNat then none
  else match recoverY x.toNat (tag.toNat % 2) with
    | none => none
    | some y => some ⟨x.toNat, y, 1⟩

/-- PDEC (R182). -/
def execPdec (rd ra : Index) (s : State) : Result :=
  match decodeKey s.sourceTag (s.source ra) with
  | none => .next (s.raise .malformedEncoding)
  | some t => .next ((s.setPoint rd t).complete flagsClear)

/-- PENC (R184). -/
def execPenc (rd ra : Index) (s : State) : Result :=
  let t := s.sourcePoint ra
  if !inRange t then .next (s.raise .invalidOperand)
  else if t.z = 0 then .next (s.raise .invalidOperand)
  else
    let q := aff t
    .next (((s.setReg rd (BitVec.ofNat 256 q.x)).setTag (tagOf q.y)).complete flagsClear)

end Sys2Proof.Machine
end

