-- ==== Sys2Proof/Machine/Field.lean ====
section
/-! DEFINITION. The field commands, modulo p (spec/40_field.md). The shapes are shared with the scalar commands, which
have the same rules modulo n (spec/41_scalar.md R130, R141). -/

namespace Sys2Proof.Machine

/-- A command of two residue sources: both must be below m, else `InvalidOperand` (R111, R131). -/
def residue2 (m : Nat) (f : Nat → Nat → Nat) (rd ra rb : Index) (s : State) : Result :=
  let a := (s.source ra).toNat
  let b := (s.source rb).toNat
  if m ≤ a ∨ m ≤ b then .next (s.raise .invalidOperand) else .next (s.completeResidue rd (f a b))

/-- A command of one residue source (R111, R131). -/
def residue1 (m : Nat) (f : Nat → Nat) (rd ra : Index) (s : State) : Result :=
  let a := (s.source ra).toNat
  if m ≤ a then .next (s.raise .invalidOperand) else .next (s.completeResidue rd (f a))

/-- FADD (R112). -/
def execFadd (rd ra rb : Index) (s : State) : Result := residue2 Config.p (addMod Config.p) rd ra rb s

/-- FSUB, r[ra] minus r[rb] (R113). -/
def execFsub (rd ra rb : Index) (s : State) : Result := residue2 Config.p (subMod Config.p) rd ra rb s

/-- FMUL: the ordinary residue of the product, no Montgomery form (R114, spec/00_scope.md R4). -/
def execFmul (rd ra rb : Index) (s : State) : Result := residue2 Config.p (mulMod Config.p) rd ra rb s

/-- FSQR (R115). -/
def execFsqr (rd ra : Index) (s : State) : Result := residue1 Config.p (sqrMod Config.p) rd ra s

/-- FINV: a^(p-2) mod p, so 0 for 0 (R116). -/
def execFinv (rd ra : Index) (s : State) : Result := residue1 Config.p (invMod Config.p) rd ra s

end Sys2Proof.Machine
end

