-- ==== Sys2Proof/Machine/Scalar.lean ====
section
/-! DEFINITION. The scalar commands, modulo n, and the random scalar (spec/41_scalar.md). -/

namespace Sys2Proof.Machine

/-- NADD (R132). -/
def execNadd (rd ra rb : Index) (s : State) : Result := residue2 Config.n (addMod Config.n) rd ra rb s

/-- NSUB, r[ra] minus r[rb] (R133). -/
def execNsub (rd ra rb : Index) (s : State) : Result := residue2 Config.n (subMod Config.n) rd ra rb s

/-- NMUL (R134). -/
def execNmul (rd ra rb : Index) (s : State) : Result := residue2 Config.n (mulMod Config.n) rd ra rb s

/-- NSQR (R135). -/
def execNsqr (rd ra : Index) (s : State) : Result := residue1 Config.n (sqrMod Config.n) rd ra s

/-- NINV: a^(n-2) mod n, so 0 for 0 (R136). -/
def execNinv (rd ra : Index) (s : State) : Result := residue1 Config.n (invMod Config.n) rd ra s

/-- The residue of a 256-bit value modulo n (R137; the digest's e, spec/44_ecdsa.md R191). -/
def reduceN (a : Nat) : Nat := a % Config.n

/-- NRED: every value is accepted (R137, R131). -/
def execNred (rd ra : Index) (s : State) : Result := .next (s.completeResidue rd (reduceN (s.source ra).toNat))

/-- NRAND under a draw limit (R140): the accepted value as it stands, all flags 0. -/
def nrandUnder (limit : Config.DrawLimit) (rd : Index) (s : State) : Result :=
  .next (s.nextScalar limit fun v => some ((s.setReg rd v).complete flagsClear))

/-- NRAND (R140). -/
def execNrand (rd : Index) (s : State) : Result := nrandUnder Config.drawLimit rd s

end Sys2Proof.Machine
end

