-- ==== Sys2Proof/Machine/Ecdsa.lean ====
section
/-! DEFINITION. The protocol commands (spec/44_ecdsa.md). -/

namespace Sys2Proof.Machine

/-- A Scalar in [1, n - 1]: a private key, a signature half (R194, R197). -/
def scalarNonzero (v : Nat) : Bool := v != 0 && v < Config.n

/-- KEYGEN under a draw limit (R192): the private key is the accepted draw, the public key is d G. -/
def keygenUnder (limit : Config.DrawLimit) (rd : Index) (s : State) : Result :=
  .next (s.nextScalar limit fun d =>
    let q := aff (scalarMul d.toNat Config.g)
    some (((s.setPair rd d.toNat q.x).setTag (tagOf q.y)).complete flagsClear))

/-- KEYGEN (R192). -/
def execKeygen (rd : Index) (s : State) : Result := keygenUnder Config.drawLimit rd s

/-- One attempt of SIGN with the nonce k: (r, s), or none where r = 0 or s = 0 asks for a new nonce (R194, R195). -/
def signWith (d e k : Nat) : Option (Nat × Nat) :=
  let r := reduceN (aff (scalarMul k Config.g)).x
  if r = 0 then none
  else
    let sv := mulMod Config.n (invMod Config.n k) (addMod Config.n e (mulMod Config.n r d))
    if sv = 0 then none else some (r, sv)

/-- SIGN under a draw limit (R194): the private key is checked before any draw. -/
def signUnder (limit : Config.DrawLimit) (rd ra rb : Index) (s : State) : Result :=
  let d := (s.source ra).toNat
  let e := reduceN (s.source rb).toNat
  if !scalarNonzero d then .next (s.raise .malformedEncoding)
  else .next (s.nextScalar limit fun k =>
    match signWith d e k.toNat with
    | none => none
    | some (r, sv) => some ((s.setPair rd r sv).complete flagsClear))

/-- SIGN (R194). -/
def execSign (rd ra rb : Index) (s : State) : Result := signUnder Config.drawLimit rd ra rb s

/-- Steps 3 to 6 of verification for a decoded key q, digest z and signature (r, sv) in range (R197). -/
def signatureHolds (q : Triple) (z r sv : Nat) : Bool :=
  let e := reduceN z
  let w := invMod Config.n sv
  let u1 := mulMod Config.n e w
  let u2 := mulMod Config.n r w
  let x := add (scalarMul u1 Config.g) (scalarMul u2 q)
  if x.z = 0 then false else reduceN (aff x).x == r

/-- VERIFY: the signature range first, then the key, then the equation (R197, R198). -/
def execVerify (ra rb rc : Index) (s : State) : Result :=
  let r := (s.source rc).toNat
  let sv := (s.source (rc + 1)).toNat
  if !(scalarNonzero r && scalarNonzero sv) then .next (s.raise .invalidSignature)
  else match decodeKey s.sourceTag (s.source ra) with
    | none => .next (s.raise .malformedEncoding)
    | some q =>
      if signatureHolds q (s.source rb).toNat r sv then .next (s.complete flagsValid)
      else .next (s.raise .invalidSignature)

end Sys2Proof.Machine
end

