-- ==== Sys2Proof/Machine/Point.lean ====
section
/-! DEFINITION. The point commands (spec/42_point.md). -/

namespace Sys2Proof.Machine

/-- A command of one point source and a point result: each coordinate must be below p (R151). -/
def point1 (f : Triple → Triple) (rd ra : Index) (s : State) : Result :=
  let t := s.sourcePoint ra
  if inRange t then .next (s.completePoint rd (f t)) else .next (s.raise .invalidOperand)

/-- PDBL (R152). -/
def execPdbl (rd ra : Index) (s : State) : Result := point1 dbl rd ra s

/-- PADD: all six coordinates must be below p (R154). -/
def execPadd (rd ra rb : Index) (s : State) : Result :=
  let t1 := s.sourcePoint ra
  let t2 := s.sourcePoint rb
  if inRange t1 && inRange t2 then .next (s.completePoint rd (add t1 t2)) else .next (s.raise .invalidOperand)

/-- PMUL: a Scalar times a point of the curve, in affine form (R157). -/
def execPmul (rd ra rb : Index) (s : State) : Result :=
  let k := (s.source ra).toNat
  let t := s.sourcePoint rb
  if Config.n ≤ k then .next (s.raise .invalidOperand)
  else if !inRange t then .next (s.raise .invalidOperand)
  else if t.z ≠ 0 ∧ !satisfiesEquation t then .next (s.raise .invalidOperand)
  else .next (s.completePoint rd (aff (scalarMul k t)))

/-- PCHK: writes the flags only (R160). -/
def execPchk (ra : Index) (s : State) : Result :=
  let t := s.sourcePoint ra
  if inRange t then .next (s.complete (flagsOfCheck t)) else .next (s.raise .invalidOperand)

/-- PAFF (R162). -/
def execPaff (rd ra : Index) (s : State) : Result := point1 aff rd ra s

end Sys2Proof.Machine
end

