-- ==== Sys2Proof/Machine/System.lean ====
section
/-! DEFINITION. The system command (spec/45_system.md). -/

namespace Sys2Proof.Machine

/-- NOP: completes and leaves the flags, the one command that does (R210, R29). -/
def execNop (s : State) : Result := .next (s.complete s.flags)

end Sys2Proof.Machine
end

