-- ==== Sys2Proof/Machine/Dispatch.lean ====
section
/-! DEFINITION. The meaning of each command: one arm per constructor of `Instr`. -/

namespace Sys2Proof.Machine

/-- What the running command does in one turn of the core (spec/20_memory.md R76, spec/60_exceptions.md R224). -/
def exec (i : Instr) (s : State) : Host.Outcome State Fault Refusal :=
  match i with
  | .nop => Sys2Proof.Machine.execNop s
  | .fadd rd ra rb => Sys2Proof.Machine.execFadd rd ra rb s
  | .fsub rd ra rb => Sys2Proof.Machine.execFsub rd ra rb s
  | .fmul rd ra rb => Sys2Proof.Machine.execFmul rd ra rb s
  | .fsqr rd ra => Sys2Proof.Machine.execFsqr rd ra s
  | .finv rd ra => Sys2Proof.Machine.execFinv rd ra s
  | .nadd rd ra rb => Sys2Proof.Machine.execNadd rd ra rb s
  | .nsub rd ra rb => Sys2Proof.Machine.execNsub rd ra rb s
  | .nmul rd ra rb => Sys2Proof.Machine.execNmul rd ra rb s
  | .nsqr rd ra => Sys2Proof.Machine.execNsqr rd ra s
  | .ninv rd ra => Sys2Proof.Machine.execNinv rd ra s
  | .nred rd ra => Sys2Proof.Machine.execNred rd ra s
  | .nrand rd => Sys2Proof.Machine.execNrand rd s
  | .pdbl rd ra => Sys2Proof.Machine.execPdbl rd ra s
  | .padd rd ra rb => Sys2Proof.Machine.execPadd rd ra rb s
  | .pmul rd ra rb => Sys2Proof.Machine.execPmul rd ra rb s
  | .pchk ra => Sys2Proof.Machine.execPchk ra s
  | .paff rd ra => Sys2Proof.Machine.execPaff rd ra s
  | .pdec rd ra => Sys2Proof.Machine.execPdec rd ra s
  | .penc rd ra => Sys2Proof.Machine.execPenc rd ra s
  | .keygen rd => Sys2Proof.Machine.execKeygen rd s
  | .sign rd ra rb => Sys2Proof.Machine.execSign rd ra rb s
  | .verify ra rb rc => Sys2Proof.Machine.execVerify ra rb rc s

end Sys2Proof.Machine
end

