-- ==== Sys2Proof/Machine/Sequencer.lean ====
section
/-! DEFINITION. The core's own turn: the phases of spec/10_state.md R28. -/

namespace Sys2Proof.Machine

/-- One turn of the core. In RUN the word in `CMD` is the running command's (R32): a command does what its meaning
says, an illegal word completes with `IllegalCommand` (spec/60_exceptions.md R225). In IDLE and in WAIT the core does
nothing of its own (R28, R237). -/
def coreTurn (s : State) : Result :=
  match s.phase with
  | .idle => .next s
  | .wait => .next s
  | .run =>
    match decode s.cmd with
    | .ok i => exec i s
    | .error _ => .next (s.raise .illegalCommand)

end Sys2Proof.Machine
end

