-- ==== Sys2Proof/Machine/Step.lean ====
section
/-! DEFINITION. One step: the first event of the agenda happens; with none left it is the core's turn
(spec/20_memory.md R77). -/

namespace Sys2Proof.Machine

/-- One atomic step of the interleaving of R77. -/
def step (s : State) : Host.Outcome State Fault Refusal :=
  match s.agenda with
  | [] => coreTurn s
  | .core :: rest => coreTurn { s with agenda := rest }
  | .host t :: rest => .next (serve { s with agenda := rest } t)
  | .entropy valid fail data :: rest => .next (entropyLines { s with agenda := rest } valid fail data)
  | .reset none :: rest => .next (State.hardReset { s with agenda := rest })
  | .reset (some _) :: _ => .refused .hostDuringReset

/-- The state in which the word of the `nbits` low bits of w has just been accepted (R73) and the core moves next, so
that `step` runs exactly that command. -/
def State.withFetchWord (s : State) (nbits w : Nat) : State :=
  { s.accept (BitVec.ofNat 32 (w % 2 ^ nbits)) with agenda := .core :: s.agenda }

end Sys2Proof.Machine
end

