-- ==== Sys2Proof/Safety.lean ====
section
/-! DEFINITION. What a safe run is, and the invariant of the core that the claims cite. -/

namespace Sys2Proof.Machine

/-- The commands that may call `Draw()` (spec/41_scalar.md R138, spec/60_exceptions.md R221 code 1). -/
def drawingCommand : Instr → Bool
  | .nop => false
  | .fadd _ _ _ => false
  | .fsub _ _ _ => false
  | .fmul _ _ _ => false
  | .fsqr _ _ => false
  | .finv _ _ => false
  | .nadd _ _ _ => false
  | .nsub _ _ _ => false
  | .nmul _ _ _ => false
  | .nsqr _ _ => false
  | .ninv _ _ => false
  | .nred _ _ => false
  | .nrand _ => true
  | .pdbl _ _ => false
  | .padd _ _ _ => false
  | .pmul _ _ _ => false
  | .pchk _ => false
  | .paff _ _ => false
  | .pdec _ _ => false
  | .penc _ _ => false
  | .keygen _ => true
  | .sign _ _ _ => true
  | .verify _ _ _ => false

/-- The invariant of the core: what holds after reset and is kept by every step. -/
structure State.Inv (s : State) : Prop where
  /-- Hidden state is held exactly while a command runs (R39). -/
  hidden_iff_busy : s.hidden.isSome = s.busy
  /-- BUSY implies DONE = 0 (R34). -/
  busy_not_done : s.busy = true → s.done = false
  /-- BUSY implies OUTCOME = 0 (R34). -/
  busy_outcome : s.busy = true → s.outcome = 0
  /-- RNGWAIT implies BUSY (R34). -/
  wait_busy : s.rngwait = true → s.busy = true
  /-- OUTCOME is never a value from 6 to 15 (R34). -/
  outcome_range : s.outcome.toNat ≤ 5
  /-- A failing outcome comes with all flags 0 (R29, R224). -/
  failure_flags : s.outcome ≠ 0 → s.flags = ⟨false, false, false⟩
  /-- The reserved bits of FSTICKY are 0 (R37). -/
  sticky_reserved : s.fsticky &&& ~~~0x0000013E#32 = 0
  /-- The sampled sources are still the registers (R74, R269). -/
  sampled : ∀ h, s.hidden = some h → h.regs = s.regs ∧ h.pktag = s.pktag
  /-- A draw is outstanding or answered only for a command that draws, and was counted (R39, R139). -/
  draws_counted : ∀ h, s.hidden = some h → s.rngwait = true ∨ h.drawn ≠ none →
    1 ≤ h.draws ∧ ∃ i, decode s.cmd = .ok i ∧ drawingCommand i = true
  /-- While the core waits no answer is held (R40, R236). -/
  wait_no_answer : ∀ h, s.hidden = some h → s.rngwait = true → h.drawn = none
  /-- No command makes more draws than the limit (R139). -/
  draws_limited : ∀ h, s.hidden = some h → ∀ k, Config.drawLimit = some k → h.draws ≤ k.val

/-- The surroundings keep the duty of R261: no transaction is started while `rst` is 1. -/
def State.agendaKeepsDuty (s : State) : Prop := ∀ t, Event.reset (some t) ∉ s.agenda

/-- A safe run: no number of steps ends in a fault or a refusal. -/
def Safe (s : State) : Prop := ∀ k, ∃ t, Host.Core.run Sys2Proof.core k s = .next t

end Sys2Proof.Machine
end

