-- ==== Sys2Proof/Certificates/Slice0/Obligations.lean ====
section
/-! DEFINITION. The statements for the provers. `Spec` holds the rules' own arithmetic, written from the spec's text
over exact integers and register numbers, apart from the functions the model computes with. -/

namespace Sys2Proof.Spec

open Sys2Proof.Machine

/-- The integer that register number k holds in the sampled sources. -/
def src (h : Hidden) (k : Nat) : Nat := (h.regs[k]?.getD 0#256).toNat

/-- The triple at register number k in the sampled sources (R24). -/
def srcPoint (h : Hidden) (k : Nat) : Triple := ⟨src h k, src h (k + 1), src h (k + 2)⟩

/-- Register number k becomes the integer v. -/
def put (regs : Vector Value 16) (k v : Nat) : Vector Value 16 := regs.setIfInBounds k (BitVec.ofNat 256 v)

/-- The pair at register number k becomes (u, v) (R25). -/
def putPair (regs : Vector Value 16) (k u v : Nat) : Vector Value 16 := put (put regs k u) (k + 1) v

/-- The triple at register number k becomes (x, y, z) (R24). -/
def putPoint (regs : Vector Value 16) (k x y z : Nat) : Vector Value 16 := put (put (put regs k x) (k + 1) y) (k + 2) z

/-- The completion step with outcome OK: these registers, this tag, these flags, and nothing else of R76 open. -/
def ok (s : State) (regs : Vector Value 16) (tag : Byte) (z inf t : Bool) : State :=
  { s with regs := regs, pktag := tag, flags := ⟨z, inf, t⟩, outcome := 0#4, done := true, busy := false,
           rngwait := false, hidden := none }

/-- The completion step with the failing outcome of code c (R76, R224): no register, no tag. -/
def fails (s : State) (c : Nat) : State :=
  { s with flags := ⟨false, false, false⟩, fsticky := s.fsticky ||| BitVec.ofNat 32 (2 ^ c),
           outcome := BitVec.ofNat 4 c, done := true, busy := false, rngwait := false, hidden := none }

/-- Completion with the residue v in register rd: Z says whether it is 0. -/
def residue (s : State) (rd : Index) (v : Nat) : State :=
  ok s (put s.regs rd.toNat v) s.pktag (v == 0) false false

/-- Completion with the triple (x, y, z) at rd: INF says whether it is (0, 0, 0). -/
def point (s : State) (rd : Index) (t : Triple) : State :=
  ok s (putPoint s.regs rd.toNat t.x t.y t.z) s.pktag false (t.x == 0 && t.y == 0 && t.z == 0) false

/-- The word op << 24 | rd << 20 | ra << 16 | rb << 12 | rc << 8 (R90). -/
def word (op : Nat) (rd ra rb rc : Index) : Word :=
  BitVec.ofNat 32 (op * 2 ^ 24 + rd.toNat * 2 ^ 20 + ra.toNat * 2 ^ 16 + rb.toNat * 2 ^ 12 + rc.toNat * 2 ^ 8)

/-- The word is the command's, both ways. -/
def isWordOf (w : Word) (i : Instr) : Prop := encode i = w ∧ decode w = .ok i

/-- The representative in [0, m) of an integer. -/
def mod (v : ℤ) (m : Nat) : Nat := (v % (m : ℤ)).toNat

/-- `Dbl` of R152 on exact integers, reduced at the end. -/
def dbl (t : Triple) : Triple :=
  if t.z = 0 ∨ t.y = 0 then ⟨0, 0, 0⟩ else
  let X : ℤ := t.x
  let Y : ℤ := t.y
  let Z : ℤ := t.z
  let S := 4 * X * Y ^ 2
  let M := 3 * (X - Z ^ 2) * (X + Z ^ 2)
  let X3 := M ^ 2 - 2 * S
  ⟨mod X3 Config.p, mod (M * (S - X3) - 8 * Y ^ 4) Config.p, mod (2 * Y * Z) Config.p⟩

/-- `Add` of R154 on exact integers, reduced at the end. -/
def add (t1 t2 : Triple) : Triple :=
  if t1.z = 0 ∧ t2.z = 0 then ⟨0, 0, 0⟩ else
  if t1.z = 0 then t2 else
  if t2.z = 0 then t1 else
  let U1 : ℤ := t1.x * t2.z ^ 2
  let U2 : ℤ := t2.x * t1.z ^ 2
  let S1 : ℤ := t1.y * t2.z ^ 3
  let S2 : ℤ := t2.y * t1.z ^ 3
  let H := U2 - U1
  let R := S2 - S1
  if H % (Config.p : ℤ) = 0 ∧ R % (Config.p : ℤ) = 0 then dbl t1 else
  if H % (Config.p : ℤ) = 0 then ⟨0, 0, 0⟩ else
  let X3 := R ^ 2 - H ^ 3 - 2 * U1 * H ^ 2
  ⟨mod X3 Config.p, mod (R * (U1 * H ^ 2 - X3) - S1 * H ^ 3) Config.p, mod (H * t1.z * t2.z) Config.p⟩

/-- `ScalarMul` of R158: for i from 255 down to 0, double, add, select. -/
def scalarMul (k : Nat) (t : Triple) : Triple :=
  (List.range 256).reverse.foldl (fun A i => if k.testBit i then add (dbl A) t else dbl A) ⟨0, 0, 0⟩

/-- r = `Aff(t)` of R162, said without an inverse: (x, y, 1) with x Z^2 = X and y Z^3 = Y modulo p, or (0, 0, 0). -/
def isAff (t r : Triple) : Prop :=
  if t.z = 0 then r = ⟨0, 0, 0⟩
  else r.z = 1 ∧ r.x < Config.p ∧ r.y < Config.p ∧
    r.x * t.z ^ 2 % Config.p = t.x % Config.p ∧ r.y * t.z ^ 3 % Config.p = t.y % Config.p

/-- Every coordinate is a FieldElement (R151). -/
def inField (t : Triple) : Prop := t.x < Config.p ∧ t.y < Config.p ∧ t.z < Config.p

/-- Y^2 = X^3 - 3 X Z^4 + b Z^6 modulo p (R153). -/
def equation (t : Triple) : Prop :=
  ((t.y : ℤ) ^ 2 - ((t.x : ℤ) ^ 3 - 3 * t.x * (t.z : ℤ) ^ 4 + Config.b * (t.z : ℤ) ^ 6)) % (Config.p : ℤ) = 0

/-- A triple is on the curve when Z = 0 or the equation holds (R153). -/
def onCurve (t : Triple) : Prop := t.z = 0 ∨ equation t

/-- y is the root of x^3 - 3 x + b of the tag's parity (R181). -/
def isRoot (x : Nat) (tag : Byte) (y : Nat) : Prop :=
  y < Config.p ∧ ((y : ℤ) ^ 2 - ((x : ℤ) ^ 3 - 3 * x + Config.b)) % (Config.p : ℤ) = 0 ∧ y % 2 = tag.toNat % 2

/-- A tag of a compressed key (R180). -/
def isTag (tag : Byte) : Prop := tag = 0x02#8 ∨ tag = 0x03#8

/-- The sampler asks for a draw: none is answered, or the answered one is rejected (R138). -/
def mustDraw (h : Hidden) : Prop :=
  h.drawn = none ∨ ∃ v, h.drawn = some (.value v) ∧ (v.toNat = 0 ∨ Config.n ≤ v.toNat)

/-- A value the sampler returns (R138). -/
def accepts (h : Hidden) (v : Nat) : Prop :=
  ∃ w, h.drawn = some (.value w) ∧ w.toNat = v ∧ 1 ≤ v ∧ v ≤ Config.n - 1

/-- The head of the sampler's loop: at the limit `RandomUnavailable`, else one more draw and phase WAIT (R138, R139,
R236). -/
def drawOrFail (limit : Config.DrawLimit) (s : State) (h : Hidden) : State :=
  if limit.map (·.val) = some h.draws then fails s 1
  else { s with rngwait := true, hidden := some { h with draws := h.draws + 1, drawn := none } }

/-- The kind of a field of the command word (R91). -/
inductive Kind where
  | unused
  | reg
  | point
  | pair

/-- The limit R96 c to e set on a field of each kind. -/
def Kind.allows (k : Kind) (f : Index) : Prop :=
  match k with
  | .unused => f.toNat = 0
  | .reg => True
  | .point => f.toNat ≤ 13
  | .pair => f.toNat ≤ 14

/-- A row of R93: `op` and the kinds of rd, ra, rb, rc. -/
structure Row where
  op : Nat
  rd : Kind
  ra : Kind
  rb : Kind
  rc : Kind

/-- The rows of R93. -/
def rows : List Row := [
  Row.mk 0x00 .unused .unused .unused .unused,
  Row.mk 0x01 .reg .reg .reg .unused,
  Row.mk 0x02 .reg .reg .reg .unused,
  Row.mk 0x03 .reg .reg .reg .unused,
  Row.mk 0x04 .reg .reg .unused .unused,
  Row.mk 0x05 .reg .reg .unused .unused,
  Row.mk 0x11 .reg .reg .reg .unused,
  Row.mk 0x12 .reg .reg .reg .unused,
  Row.mk 0x13 .reg .reg .reg .unused,
  Row.mk 0x14 .reg .reg .unused .unused,
  Row.mk 0x15 .reg .reg .unused .unused,
  Row.mk 0x16 .reg .reg .unused .unused,
  Row.mk 0x17 .reg .unused .unused .unused,
  Row.mk 0x21 .point .point .unused .unused,
  Row.mk 0x22 .point .point .point .unused,
  Row.mk 0x23 .point .reg .point .unused,
  Row.mk 0x24 .unused .point .unused .unused,
  Row.mk 0x25 .point .point .unused .unused,
  Row.mk 0x26 .point .reg .unused .unused,
  Row.mk 0x27 .reg .point .unused .unused,
  Row.mk 0x31 .pair .unused .unused .unused,
  Row.mk 0x32 .pair .reg .reg .unused,
  Row.mk 0x33 .unused .reg .reg .pair]

/-- The register numbers a command writes when it ends OK (R93, R24, R25). -/
def dests : Instr → List Nat
  | .nop => []
  | .fadd rd _ _ => [rd.toNat]
  | .fsub rd _ _ => [rd.toNat]
  | .fmul rd _ _ => [rd.toNat]
  | .fsqr rd _ => [rd.toNat]
  | .finv rd _ => [rd.toNat]
  | .nadd rd _ _ => [rd.toNat]
  | .nsub rd _ _ => [rd.toNat]
  | .nmul rd _ _ => [rd.toNat]
  | .nsqr rd _ => [rd.toNat]
  | .ninv rd _ => [rd.toNat]
  | .nred rd _ => [rd.toNat]
  | .nrand rd => [rd.toNat]
  | .pdbl rd _ => [rd.toNat, rd.toNat + 1, rd.toNat + 2]
  | .padd rd _ _ => [rd.toNat, rd.toNat + 1, rd.toNat + 2]
  | .pmul rd _ _ => [rd.toNat, rd.toNat + 1, rd.toNat + 2]
  | .pchk _ => []
  | .paff rd _ => [rd.toNat, rd.toNat + 1, rd.toNat + 2]
  | .pdec rd _ => [rd.toNat, rd.toNat + 1, rd.toNat + 2]
  | .penc rd _ => [rd.toNat]
  | .keygen rd => [rd.toNat, rd.toNat + 1]
  | .sign rd _ _ => [rd.toNat, rd.toNat + 1]
  | .verify _ _ _ => []

/-- The commands that write `PKTAG` (R38). -/
def writesTag : Instr → Bool
  | .penc _ _ => true
  | .keygen _ => true
  | _ => false

/-- The event of a step: the first of the agenda, or the core's own turn. -/
def event (s : State) : Event := s.agenda.headD .core

/-- The events that reset the core (R261, R262). -/
def isReset : Event → Prop
  | .reset _ => True
  | .host (.write a size v) => a = 0x010#10 ∧ size = 4 ∧ v.getLsbD 1 = true
  | _ => False

/-- The curve of R15 over the integers modulo p, for Mathlib's group of points. -/
def curve : WeierstrassCurve.Affine (ZMod Config.p) := { a₁ := 0, a₂ := 0, a₃ := 0, a₄ := -3, a₆ := Config.b }

/-- The triple stands for the point (R24): Z = 0 for the identity, else x Z^2 = X and y Z^3 = Y. -/
def standsFor [Fact (Nat.Prime Config.p)] (t : Triple) (P : curve.Point) : Prop :=
  match P with
  | .zero => t.z = 0
  | .some x y _ => t.z ≠ 0 ∧ x * (t.z : ZMod Config.p) ^ 2 = t.x ∧ y * (t.z : ZMod Config.p) ^ 3 = t.y

end Sys2Proof.Spec

open Sys2Proof Sys2Proof.Machine

/-! ### Encoding -/

/-- Decoding the word of a well-formed command gives the command back (R93, R96), for all 23 commands. -/
def Obligations.DecodeOfEncode : Prop :=
  ∀ i : Instr, i.wellFormed = true → decode (encode i) = .ok i

/-- A word that decodes is the one word of its command, and the command is well formed (R95). -/
def Obligations.EncodeOfDecode : Prop :=
  ∀ (w : Word) (i : Instr), decode w = .ok i → encode i = w ∧ i.wellFormed = true

/-- R93: (w and mask) = match exactly for the words of the row, before the index checks. -/
def Obligations.MaskMatchSelectsRow : Prop :=
  ∀ (w : Word) (i : Instr),
    w &&& rowMask i = rowMatch i ↔ ∃ j : Instr, j.mnemonic = i.mnemonic ∧ encode j = w

/-- R96: a word is illegal exactly under clauses (a) to (e), read off the table of R93. -/
def Obligations.IllegalWordsExactly : Prop :=
  ∀ w : Word, (∃ e, decode w = .error e) ↔
    ((∀ r ∈ Spec.rows, r.op ≠ w.toNat / 2 ^ 24) ∨
     w.toNat % 2 ^ 8 ≠ 0 ∨
     ∃ r ∈ Spec.rows, r.op = w.toNat / 2 ^ 24 ∧
      ¬ (r.rd.allows (BitVec.ofNat 4 (w.toNat / 2 ^ 20)) ∧ r.ra.allows (BitVec.ofNat 4 (w.toNat / 2 ^ 16)) ∧
         r.rb.allows (BitVec.ofNat 4 (w.toNat / 2 ^ 12)) ∧ r.rc.allows (BitVec.ofNat 4 (w.toNat / 2 ^ 8))))

/-- The example words of R97 and three illegal ones of spec/95_test_vectors.md V11. -/
def Obligations.SpecWordsDecode : Prop :=
  decode 0x03201000#32 = .ok (.fmul 2 0 1) ∧ decode 0x22036000#32 = .ok (.padd 0 3 6) ∧
  decode 0x23093000#32 = .ok (.pmul 0 9 3) ∧ decode 0x24030000#32 = .ok (.pchk 3) ∧
  decode 0x32201000#32 = .ok (.sign 2 0 1) ∧ decode 0x33041200#32 = .ok (.verify 4 1 2) ∧
  decode 0x31000000#32 = .ok (.keygen 0) ∧ decode 0x00000000#32 = .ok .nop ∧
  decode 0x03201001#32 = .error .zeroByte ∧ decode 0x210E0000#32 = .error .pointIndex ∧
  decode 0x31F00000#32 = .error .pairIndex

/-! ### Commands -/

/-- R210: NOP completes OK and leaves every register, PKTAG and the flags. -/
def Obligations.NopRule : Prop :=
  Spec.isWordOf 0x00000000#32 .nop ∧
  ∀ s : State, exec .nop s = .next (Spec.ok s s.regs s.pktag s.flags.z s.flags.inf s.flags.t)

/-- R112, R113, R114: FADD, FSUB and FMUL. -/
def Obligations.FieldAddSubMulRules : Prop :=
  ∀ (rd ra rb : Index) (s : State) (h : Hidden), s.hidden = some h →
    let a := Spec.src h ra.toNat
    let b := Spec.src h rb.toNat
    (Spec.isWordOf (Spec.word 0x01 rd ra rb 0) (.fadd rd ra rb) ∧
     Spec.isWordOf (Spec.word 0x02 rd ra rb 0) (.fsub rd ra rb) ∧
     Spec.isWordOf (Spec.word 0x03 rd ra rb 0) (.fmul rd ra rb)) ∧
    (Config.p ≤ a ∨ Config.p ≤ b →
      exec (.fadd rd ra rb) s = .next (Spec.fails s 2) ∧ exec (.fsub rd ra rb) s = .next (Spec.fails s 2) ∧
      exec (.fmul rd ra rb) s = .next (Spec.fails s 2)) ∧
    (a < Config.p → b < Config.p →
      exec (.fadd rd ra rb) s = .next (Spec.residue s rd (if Config.p ≤ a + b then a + b - Config.p else a + b)) ∧
      exec (.fsub rd ra rb) s = .next (Spec.residue s rd (if a < b then a + Config.p - b else a - b)) ∧
      exec (.fmul rd ra rb) s = .next (Spec.residue s rd (a * b % Config.p)))

/-- R115: FSQR, and the same result as FMUL of the operand by itself. -/
def Obligations.FsqrRule : Prop :=
  ∀ (rd ra : Index) (s : State) (h : Hidden), s.hidden = some h →
    let a := Spec.src h ra.toNat
    Spec.isWordOf (Spec.word 0x04 rd ra 0 0) (.fsqr rd ra) ∧
    (Config.p ≤ a → exec (.fsqr rd ra) s = .next (Spec.fails s 2)) ∧
    (a < Config.p → exec (.fsqr rd ra) s = .next (Spec.residue s rd (a * a % Config.p))) ∧
    exec (.fsqr rd ra) s = exec (.fmul rd ra ra) s

/-- R116: FINV writes a^(p-2) mod p, which for a ≠ 0 is the unique inverse in [1, p) and for 0 is 0. -/
def Obligations.FinvRule : Prop :=
  ∀ (rd ra : Index) (s : State) (h : Hidden), s.hidden = some h →
    let a := Spec.src h ra.toNat
    Spec.isWordOf (Spec.word 0x05 rd ra 0 0) (.finv rd ra) ∧
    (Config.p ≤ a → exec (.finv rd ra) s = .next (Spec.fails s 2)) ∧
    (a < Config.p → ∃ v, v = a ^ (Config.p - 2) % Config.p ∧ (a = 0 → v = 0) ∧
      (a ≠ 0 → (1 ≤ v ∧ v < Config.p ∧ a * v % Config.p = 1) ∧
        ∀ u, 1 ≤ u → u < Config.p → a * u % Config.p = 1 → u = v) ∧
      exec (.finv rd ra) s = .next (Spec.residue s rd v))

/-- R132, R133, R134: NADD, NSUB and NMUL. -/
def Obligations.ScalarAddSubMulRules : Prop :=
  ∀ (rd ra rb : Index) (s : State) (h : Hidden), s.hidden = some h →
    let a := Spec.src h ra.toNat
    let b := Spec.src h rb.toNat
    (Spec.isWordOf (Spec.word 0x11 rd ra rb 0) (.nadd rd ra rb) ∧
     Spec.isWordOf (Spec.word 0x12 rd ra rb 0) (.nsub rd ra rb) ∧
     Spec.isWordOf (Spec.word 0x13 rd ra rb 0) (.nmul rd ra rb)) ∧
    (Config.n ≤ a ∨ Config.n ≤ b →
      exec (.nadd rd ra rb) s = .next (Spec.fails s 2) ∧ exec (.nsub rd ra rb) s = .next (Spec.fails s 2) ∧
      exec (.nmul rd ra rb) s = .next (Spec.fails s 2)) ∧
    (a < Config.n → b < Config.n →
      exec (.nadd rd ra rb) s = .next (Spec.residue s rd (if Config.n ≤ a + b then a + b - Config.n else a + b)) ∧
      exec (.nsub rd ra rb) s = .next (Spec.residue s rd (if a < b then a + Config.n - b else a - b)) ∧
      exec (.nmul rd ra rb) s = .next (Spec.residue s rd (a * b % Config.n)))

/-- R135: NSQR, and the same result as NMUL of the operand by itself. -/
def Obligations.NsqrRule : Prop :=
  ∀ (rd ra : Index) (s : State) (h : Hidden), s.hidden = some h →
    let a := Spec.src h ra.toNat
    Spec.isWordOf (Spec.word 0x14 rd ra 0 0) (.nsqr rd ra) ∧
    (Config.n ≤ a → exec (.nsqr rd ra) s = .next (Spec.fails s 2)) ∧
    (a < Config.n → exec (.nsqr rd ra) s = .next (Spec.residue s rd (a * a % Config.n))) ∧
    exec (.nsqr rd ra) s = exec (.nmul rd ra ra) s

/-- R136: NINV writes a^(n-2) mod n, which for a ≠ 0 is the unique inverse in [1, n) and for 0 is 0. -/
def Obligations.NinvRule : Prop :=
  ∀ (rd ra : Index) (s : State) (h : Hidden), s.hidden = some h →
    let a := Spec.src h ra.toNat
    Spec.isWordOf (Spec.word 0x15 rd ra 0 0) (.ninv rd ra) ∧
    (Config.n ≤ a → exec (.ninv rd ra) s = .next (Spec.fails s 2)) ∧
    (a < Config.n → ∃ v, v = a ^ (Config.n - 2) % Config.n ∧ (a = 0 → v = 0) ∧
      (a ≠ 0 → (1 ≤ v ∧ v < Config.n ∧ a * v % Config.n = 1) ∧
        ∀ u, 1 ≤ u → u < Config.n → a * u % Config.n = 1 → u = v) ∧
      exec (.ninv rd ra) s = .next (Spec.residue s rd v))

/-- R137: NRED accepts every value and subtracts n at most once. -/
def Obligations.NredRule : Prop :=
  ∀ (rd ra : Index) (s : State) (h : Hidden), s.hidden = some h →
    let a := Spec.src h ra.toNat
    Spec.isWordOf (Spec.word 0x16 rd ra 0 0) (.nred rd ra) ∧
    a % Config.n = (if Config.n ≤ a then a - Config.n else a) ∧
    exec (.nred rd ra) s = .next (Spec.residue s rd (a % Config.n))

/-- R138, R139: the sampler, for every limit and every use of its value. -/
def Obligations.SamplerRule : Prop :=
  ∀ (limit : Config.DrawLimit) (attempt : Value → Option State) (s : State) (h : Hidden), s.hidden = some h →
    (Spec.mustDraw h → s.nextScalar limit attempt = Spec.drawOrFail limit s h) ∧
    (h.drawn = some .unavailable → s.nextScalar limit attempt = Spec.fails s 1) ∧
    (∀ v t, h.drawn = some (.value v) → 1 ≤ v.toNat → v.toNat ≤ Config.n - 1 → attempt v = some t →
      s.nextScalar limit attempt = t) ∧
    (∀ v, h.drawn = some (.value v) → 1 ≤ v.toNat → v.toNat ≤ Config.n - 1 → attempt v = none →
      s.nextScalar limit attempt = Spec.drawOrFail limit s h)

/-- R140: NRAND writes the accepted draw as it stands; otherwise it draws again or ends `RandomUnavailable`. -/
def Obligations.NrandRule : Prop :=
  ∀ (limit : Config.DrawLimit) (rd : Index) (s : State) (h : Hidden), s.hidden = some h →
    Spec.isWordOf (Spec.word 0x17 rd 0 0 0) (.nrand rd) ∧
    exec (.nrand rd) s = nrandUnder Config.drawLimit rd s ∧
    (Spec.mustDraw h → nrandUnder limit rd s = .next (Spec.drawOrFail limit s h)) ∧
    (h.drawn = some .unavailable → nrandUnder limit rd s = .next (Spec.fails s 1)) ∧
    (∀ v, Spec.accepts h v →
      nrandUnder limit rd s = .next (Spec.ok s (Spec.put s.regs rd.toNat v) s.pktag false false false) ∧
      exec (.nrand rd) s = .next (Spec.ok s (Spec.put s.regs rd.toNat v) s.pktag false false false))

/-- R152: PDBL writes exactly the triple of `Dbl`. -/
def Obligations.PdblRule : Prop :=
  ∀ (rd ra : Index) (s : State) (h : Hidden), s.hidden = some h → rd.toNat ≤ 13 → ra.toNat ≤ 13 →
    let t := Spec.srcPoint h ra.toNat
    Spec.isWordOf (Spec.word 0x21 rd ra 0 0) (.pdbl rd ra) ∧
    (¬ Spec.inField t → exec (.pdbl rd ra) s = .next (Spec.fails s 2)) ∧
    (Spec.inField t → exec (.pdbl rd ra) s = .next (Spec.point s rd (Spec.dbl t)))

/-- R154: PADD writes exactly the triple of `Add`. -/
def Obligations.PaddRule : Prop :=
  ∀ (rd ra rb : Index) (s : State) (h : Hidden), s.hidden = some h →
    rd.toNat ≤ 13 → ra.toNat ≤ 13 → rb.toNat ≤ 13 →
    let t1 := Spec.srcPoint h ra.toNat
    let t2 := Spec.srcPoint h rb.toNat
    Spec.isWordOf (Spec.word 0x22 rd ra rb 0) (.padd rd ra rb) ∧
    (¬ (Spec.inField t1 ∧ Spec.inField t2) → exec (.padd rd ra rb) s = .next (Spec.fails s 2)) ∧
    (Spec.inField t1 → Spec.inField t2 → exec (.padd rd ra rb) s = .next (Spec.point s rd (Spec.add t1 t2)))

/-- R157, R158: PMUL writes the affine form of the 256-turn product, for a Scalar and a base on the curve. -/
def Obligations.PmulRule : Prop :=
  ∀ (rd ra rb : Index) (s : State) (h : Hidden), s.hidden = some h → rd.toNat ≤ 13 → rb.toNat ≤ 13 →
    let k := Spec.src h ra.toNat
    let t := Spec.srcPoint h rb.toNat
    Spec.isWordOf (Spec.word 0x23 rd ra rb 0) (.pmul rd ra rb) ∧
    (Config.n ≤ k ∨ ¬ Spec.inField t ∨ ¬ Spec.onCurve t → exec (.pmul rd ra rb) s = .next (Spec.fails s 2)) ∧
    (k < Config.n → Spec.inField t → Spec.onCurve t →
      ∃ r, Spec.isAff (Spec.scalarMul k t) r ∧ exec (.pmul rd ra rb) s = .next (Spec.point s rd r))

/-- R160: PCHK sets T and INF, and an off-curve point is no fault. -/
def Obligations.PchkRule : Prop :=
  ∀ (ra : Index) (s : State) (h : Hidden), s.hidden = some h → ra.toNat ≤ 13 →
    let t := Spec.srcPoint h ra.toNat
    Spec.isWordOf (Spec.word 0x24 0 ra 0 0) (.pchk ra) ∧
    (¬ Spec.inField t → exec (.pchk ra) s = .next (Spec.fails s 2)) ∧
    (Spec.inField t → t.z = 0 → exec (.pchk ra) s = .next (Spec.ok s s.regs s.pktag false true false)) ∧
    (Spec.inField t → t.z ≠ 0 → Spec.equation t →
      exec (.pchk ra) s = .next (Spec.ok s s.regs s.pktag false false true)) ∧
    (Spec.inField t → t.z ≠ 0 → ¬ Spec.equation t →
      exec (.pchk ra) s = .next (Spec.ok s s.regs s.pktag false false false))

/-- R162: PAFF writes (x, y, 1) with x Z^2 = X and y Z^3 = Y, or the canonical identity. -/
def Obligations.PaffRule : Prop :=
  ∀ (rd ra : Index) (s : State) (h : Hidden), s.hidden = some h → rd.toNat ≤ 13 → ra.toNat ≤ 13 →
    let t := Spec.srcPoint h ra.toNat
    Spec.isWordOf (Spec.word 0x25 rd ra 0 0) (.paff rd ra) ∧
    (¬ Spec.inField t → exec (.paff rd ra) s = .next (Spec.fails s 2)) ∧
    (Spec.inField t → ∃ r, Spec.isAff t r ∧ exec (.paff rd ra) s = .next (Spec.point s rd r))

/-- R182 with R181: PDEC writes (x, y, 1) for the root y of the tag's parity, and fails where there is none. -/
def Obligations.PdecRule : Prop :=
  ∀ (rd ra : Index) (s : State) (h : Hidden), s.hidden = some h → rd.toNat ≤ 13 →
    let x := Spec.src h ra.toNat
    Spec.isWordOf (Spec.word 0x26 rd ra 0 0) (.pdec rd ra) ∧
    (¬ Spec.isTag h.pktag ∨ Config.p ≤ x ∨ (∀ y, ¬ Spec.isRoot x h.pktag y) →
      exec (.pdec rd ra) s = .next (Spec.fails s 4)) ∧
    (∀ y, Spec.isTag h.pktag → x < Config.p → Spec.isRoot x h.pktag y →
      exec (.pdec rd ra) s = .next (Spec.ok s (Spec.putPoint s.regs rd.toNat x y 1) s.pktag false false false))

/-- R184: PENC writes x and the tag of y, and fails for the identity. -/
def Obligations.PencRule : Prop :=
  ∀ (rd ra : Index) (s : State) (h : Hidden), s.hidden = some h → ra.toNat ≤ 13 →
    let t := Spec.srcPoint h ra.toNat
    Spec.isWordOf (Spec.word 0x27 rd ra 0 0) (.penc rd ra) ∧
    (¬ Spec.inField t ∨ t.z = 0 → exec (.penc rd ra) s = .next (Spec.fails s 2)) ∧
    (Spec.inField t → t.z ≠ 0 → ∃ r, Spec.isAff t r ∧
      exec (.penc rd ra) s =
        .next (Spec.ok s (Spec.put s.regs rd.toNat r.x) (BitVec.ofNat 8 (2 + r.y % 2)) false false false))

/-- R192: KEYGEN with an accepted draw d writes d, the x of d G and the tag of its y. -/
def Obligations.KeygenRule : Prop :=
  ∀ (limit : Config.DrawLimit) (rd : Index) (s : State) (h : Hidden), s.hidden = some h → rd.toNat ≤ 14 →
    Spec.isWordOf (Spec.word 0x31 rd 0 0 0) (.keygen rd) ∧
    exec (.keygen rd) s = keygenUnder Config.drawLimit rd s ∧
    (Spec.mustDraw h → keygenUnder limit rd s = .next (Spec.drawOrFail limit s h)) ∧
    (h.drawn = some .unavailable → keygenUnder limit rd s = .next (Spec.fails s 1)) ∧
    (∀ d, Spec.accepts h d → ∃ q, Spec.isAff (Spec.scalarMul d Config.g) q ∧
      exec (.keygen rd) s =
        .next (Spec.ok s (Spec.putPair s.regs rd.toNat d q.x) (BitVec.ofNat 8 (2 + q.y % 2)) false false false))

/-- R194: SIGN checks the private key before any draw, retries on r = 0 and s = 0, and else writes (r, s). -/
def Obligations.SignRule : Prop :=
  ∀ (limit : Config.DrawLimit) (rd ra rb : Index) (s : State) (h : Hidden), s.hidden = some h → rd.toNat ≤ 14 →
    let d := Spec.src h ra.toNat
    let e := Spec.src h rb.toNat % Config.n
    Spec.isWordOf (Spec.word 0x32 rd ra rb 0) (.sign rd ra rb) ∧
    exec (.sign rd ra rb) s = signUnder Config.drawLimit rd ra rb s ∧
    (d = 0 ∨ Config.n ≤ d → exec (.sign rd ra rb) s = .next (Spec.fails s 4)) ∧
    (1 ≤ d → d < Config.n →
      (Spec.mustDraw h → signUnder limit rd ra rb s = .next (Spec.drawOrFail limit s h)) ∧
      (h.drawn = some .unavailable → signUnder limit rd ra rb s = .next (Spec.fails s 1)) ∧
      (∀ k, Spec.accepts h k → ∃ q sv, Spec.isAff (Spec.scalarMul k Config.g) q ∧
        sv < Config.n ∧ sv * k % Config.n = (e + q.x % Config.n * d) % Config.n ∧
        (q.x % Config.n = 0 ∨ sv = 0 → signUnder limit rd ra rb s = .next (Spec.drawOrFail limit s h)) ∧
        (q.x % Config.n ≠ 0 → sv ≠ 0 →
          exec (.sign rd ra rb) s =
            .next (Spec.ok s (Spec.putPair s.regs rd.toNat (q.x % Config.n) sv) s.pktag false false false))))

/-- R197, R198: VERIFY, step by step in the order of its checks. -/
def Obligations.VerifyRule : Prop :=
  ∀ (ra rb rc : Index) (s : State) (h : Hidden), s.hidden = some h → rc.toNat ≤ 14 →
    let x := Spec.src h ra.toNat
    let e := Spec.src h rb.toNat % Config.n
    let r := Spec.src h rc.toNat
    let sv := Spec.src h (rc.toNat + 1)
    Spec.isWordOf (Spec.word 0x33 0 ra rb rc) (.verify ra rb rc) ∧
    (r = 0 ∨ Config.n ≤ r ∨ sv = 0 ∨ Config.n ≤ sv → exec (.verify ra rb rc) s = .next (Spec.fails s 3)) ∧
    (1 ≤ r → r < Config.n → 1 ≤ sv → sv < Config.n →
      (¬ Spec.isTag h.pktag ∨ Config.p ≤ x ∨ (∀ y, ¬ Spec.isRoot x h.pktag y) →
        exec (.verify ra rb rc) s = .next (Spec.fails s 4)) ∧
      (∀ y, Spec.isTag h.pktag → x < Config.p → Spec.isRoot x h.pktag y →
        ∃ w q, w < Config.n ∧ w * sv % Config.n = 1 ∧
          let X := Spec.add (Spec.scalarMul (e * w % Config.n) Config.g) (Spec.scalarMul (r * w % Config.n) ⟨x, y, 1⟩)
          Spec.isAff X q ∧
          (X.z = 0 ∨ q.x % Config.n ≠ r → exec (.verify ra rb rc) s = .next (Spec.fails s 3)) ∧
          (X.z ≠ 0 → q.x % Config.n = r →
            exec (.verify ra rb rc) s = .next (Spec.ok s s.regs s.pktag false false true))))

/-! ### The curve -/

/-- R153: for a triple that stands for a point P of the curve, `Dbl` stands for P + P in Mathlib's group. -/
def Obligations.DoublingIsGroupDoubling : Prop :=
  ∀ [Fact (Nat.Prime Config.p)] (t : Triple) (P : Spec.curve.Point),
    inRange t = true → Spec.standsFor t P → inRange (dbl t) = true ∧ Spec.standsFor (dbl t) (P + P)

/-- R153: `Add` of triples that stand for P and Q stands for P + Q in Mathlib's group. -/
def Obligations.AdditionIsGroupAddition : Prop :=
  ∀ [Fact (Nat.Prime Config.p)] (t1 t2 : Triple) (P Q : Spec.curve.Point),
    inRange t1 = true → inRange t2 = true → Spec.standsFor t1 P → Spec.standsFor t2 Q →
    inRange (add t1 t2) = true ∧ Spec.standsFor (add t1 t2) (P + Q)

/-- R158: the 256-turn loop computes k P in Mathlib's group, for every 256-bit k. -/
def Obligations.ScalarMulIsGroupMultiple : Prop :=
  ∀ [Fact (Nat.Prime Config.p)] (k : Nat) (t : Triple) (P : Spec.curve.Point),
    k < 2 ^ 256 → inRange t = true → Spec.standsFor t P → Spec.standsFor (scalarMul k t) (k • P)

/-- R10, R15: the base point is on the curve, n G is the identity and no smaller positive multiple is; and the group of
the curve has exactly n elements. -/
def Obligations.CurveGroupHasOrderN : Prop :=
  satisfiesEquation Config.g = true ∧ (scalarMul Config.n Config.g).z = 0 ∧
  (∀ k, 0 < k → k < Config.n → (scalarMul k Config.g).z ≠ 0) ∧
  ∀ [Fact (Nat.Prime Config.p)], Nat.card Spec.curve.Point = Config.n

/-- R26: the affine form is the same for every triple (λ²X, λ³Y, λZ) of one point. -/
def Obligations.AffineFormIgnoresRepresentation : Prop :=
  ∀ (t : Triple) (l : Nat), inRange t = true → 1 ≤ l → l < Config.p →
    aff ⟨fmul (fsqr l) t.x, fmul (fmul (fsqr l) l) t.y, fmul l t.z⟩ = aff t

/-- R163: 0 P is the identity, 1 P is P in affine form, P plus an identity is P, doubling an identity is the canonical
identity. -/
def Obligations.PointEngineLaws : Prop :=
  ∀ t u : Triple, u.z = 0 →
    aff (scalarMul 0 t) = Triple.identity ∧ aff (scalarMul 1 t) = aff t ∧
    (t.z ≠ 0 → add t u = t ∧ add u t = t) ∧ (t.z = 0 → add t u = Triple.identity) ∧ dbl u = Triple.identity

/-- R119: the field laws, for FieldElements. -/
def Obligations.FieldLaws : Prop :=
  ∀ a b c : Nat, a < Config.p → b < Config.p → c < Config.p →
    fadd a b = fadd b a ∧ fmul a b = fmul b a ∧ fadd (fadd a b) c = fadd a (fadd b c) ∧
    fmul (fmul a b) c = fmul a (fmul b c) ∧ fmul a (fadd b c) = fadd (fmul a b) (fmul a c) ∧
    fsub (fadd a b) b = a ∧ fadd a (fsub 0 a) = 0 ∧ (a ≠ 0 → fmul a (invMod Config.p a) = 1) ∧
    invMod Config.p (invMod Config.p a) = a ∧ fsqr a = fmul a a

/-- R142: the same laws modulo n, and those of the reduction. -/
def Obligations.ScalarLaws : Prop :=
  (∀ a b c : Nat, a < Config.n → b < Config.n → c < Config.n →
    addMod Config.n a b = addMod Config.n b a ∧ mulMod Config.n a b = mulMod Config.n b a ∧
    addMod Config.n (addMod Config.n a b) c = addMod Config.n a (addMod Config.n b c) ∧
    mulMod Config.n (mulMod Config.n a b) c = mulMod Config.n a (mulMod Config.n b c) ∧
    mulMod Config.n a (addMod Config.n b c) = addMod Config.n (mulMod Config.n a b) (mulMod Config.n a c) ∧
    subMod Config.n (addMod Config.n a b) b = a ∧ addMod Config.n a (subMod Config.n 0 a) = 0 ∧
    (a ≠ 0 → mulMod Config.n a (invMod Config.n a) = 1) ∧ invMod Config.n (invMod Config.n a) = a ∧
    sqrMod Config.n a = mulMod Config.n a a ∧ reduceN a = a) ∧
  (∀ a : Nat, reduceN (reduceN a) = reduceN a ∧ reduceN a ≡ a [MOD Config.n])

/-- R185: PDEC of what PENC wrote gives the affine form back, for every point of the curve that is not the identity. -/
def Obligations.EncodeThenDecodeKey : Prop :=
  ∀ (rd ra rd' ra' : Index) (s t s' : State) (h h' : Hidden), s.hidden = some h → s'.hidden = some h' →
    ra.toNat ≤ 13 → rd'.toNat ≤ 13 →
    Spec.inField (Spec.srcPoint h ra.toNat) → (Spec.srcPoint h ra.toNat).z ≠ 0 → Spec.equation (Spec.srcPoint h ra.toNat) →
    exec (.penc rd ra) s = .next t → h'.pktag = t.pktag → h'.regs[ra'.toNat] = t.regs[rd.toNat] →
    ∃ r, Spec.isAff (Spec.srcPoint h ra.toNat) r ∧
      exec (.pdec rd' ra') s' = .next (Spec.ok s' (Spec.putPoint s'.regs rd'.toNat r.x r.y 1) s'.pktag false false false)

/-- R200 (a), the round trip: VERIFY accepts every signature SIGN produces, under the key d G. -/
def Obligations.SignThenVerifyAccepts : Prop :=
  ∀ (rd ra rb ra' rb' rc' : Index) (s t s' : State) (h h' : Hidden), s.hidden = some h → s'.hidden = some h' →
    rd.toNat ≤ 14 → rc'.toNat ≤ 14 →
    exec (.sign rd ra rb) s = .next t → t.hidden = none → t.outcome = 0 →
    Spec.src h' ra'.toNat = (aff (scalarMul (Spec.src h ra.toNat) Config.g)).x →
    h'.pktag = tagOf (aff (scalarMul (Spec.src h ra.toNat) Config.g)).y →
    Spec.src h' rb'.toNat = Spec.src h rb.toNat →
    h'.regs[rc'.toNat]? = t.regs[rd.toNat]? → h'.regs[rc'.toNat + 1]? = t.regs[rd.toNat + 1]? →
    exec (.verify ra' rb' rc') s' = .next (Spec.ok s' s'.regs s'.pktag false false true)

/-- R199: VERIFY accepts (r, n - s) when it accepts (r, s). -/
def Obligations.VerifyAcceptsTwinSignature : Prop :=
  ∀ (ra rb rc : Index) (s s' : State) (h h' : Hidden), s.hidden = some h → s'.hidden = some h' → rc.toNat ≤ 14 →
    rc + 1 ≠ ra → rc + 1 ≠ rb →
    h'.pktag = h.pktag → h'.regs = Spec.put h.regs (rc.toNat + 1) (Config.n - Spec.src h (rc.toNat + 1)) →
    exec (.verify ra rb rc) s = .next (Spec.ok s s.regs s.pktag false false true) →
    exec (.verify ra rb rc) s' = .next (Spec.ok s' s'.regs s'.pktag false false true)

/-! ### The machine -/

/-- R75, R28, R77: what a step does with its event. A turn of the core in phase RUN runs the command that the word in
CMD decodes to, and nothing around it; a turn of an idle core changes nothing; a transaction of the host is served by
`memRead` or `memWrite`. The agenda, and that an empty one means the core's turn, are the model's own (DESIGN CHOICE, log
entry 1). -/
def Obligations.StepRunsDecodedCommand : Prop :=
  ∀ (s : State) (rest : List Event),
    (∀ i : Instr, s.busy = true → s.rngwait = false → decode s.cmd = .ok i →
      (s.agenda = .core :: rest → step s = exec i { s with agenda := rest }) ∧ (s.agenda = [] → step s = exec i s)) ∧
    (s.busy = false →
      (s.agenda = .core :: rest → step s = .next { s with agenda := rest }) ∧ (s.agenda = [] → step s = .next s)) ∧
    (∀ t : Transaction, s.agenda = .host t :: rest → step s = .next (serve { s with agenda := rest } t)) ∧
    ∀ (a : Offset) (size : Nat) (v : Word),
      serve s (.read a size) = memRead s a size ∧ serve s (.write a size v) = memWrite s a size v

/-- R225: an illegal word is accepted and completes with outcome 5, writing no register. -/
def Obligations.IllegalWordCompletes : Prop :=
  ∀ (s : State) (w : Word) (e : Illegal) (rest : List Event), decode w = .error e →
    s.busy = false → s.agenda = .host (.write 0x004#10 4 w) :: .core :: rest →
    ∃ t, step s = .next t ∧ t.busy = true ∧ t.cmd = w ∧
      step t = .next { Spec.fails s 5 with
        cmd := w, agenda := rest, portAnswer := some (.write .okay) }

/-- R73, R74: the acceptance step. That the sampled copy holds all sixteen registers and `PKTAG` for every word, an
illegal one included, is the model's choice (DESIGN CHOICE, log entry 5): R74 samples what the command reads. -/
def Obligations.AcceptanceStep : Prop :=
  ∀ (s : State) (w : Word) (rest : List Event), s.busy = false → s.agenda = .host (.write 0x004#10 4 w) :: rest →
    step s = .next { s with
      cmd := w, busy := true, done := false, outcome := 0#4, rngwait := false,
      hidden := some { regs := s.regs, pktag := s.pktag, draws := 0, drawn := none },
      agenda := rest, portAnswer := some (.write .okay) }

/-- R224, R76: a command that ends with an outcome other than OK has exactly the completion step of its code. -/
def Obligations.FailingCommandWritesNothing : Prop :=
  ∀ (i : Instr) (s t : State), exec i s = .next t → t.hidden = none → t.outcome ≠ 0 →
    ∃ c, 1 ≤ c ∧ c ≤ 4 ∧ t = Spec.fails s c

/-- The frame of every command: registers outside the destination, PKTAG but for PENC and KEYGEN, CMD, IE and the
surroundings stay; FSTICKY only gains bits. -/
def Obligations.CommandFrame : Prop :=
  ∀ (i : Instr) (s t : State), i.wellFormed = true → exec i s = .next t →
    (∀ k, k ∉ Spec.dests i → t.regs[k]? = s.regs[k]?) ∧
    (Spec.writesTag i = false → t.pktag = s.pktag) ∧
    t.cmd = s.cmd ∧ t.ie = s.ie ∧ t.agenda = s.agenda ∧ t.portAnswer = s.portAnswer ∧
    s.fsticky &&& t.fsticky = s.fsticky

/-- R275: a turn of a running command completes it, unless it is one of the three that draw, which may wait for the
source instead; no command stops the machine. -/
def Obligations.OnlySamplersWait : Prop :=
  ∀ (i : Instr) (s : State), ∃ t, exec i s = .next t ∧
    ((t.hidden = none ∧ t.busy = false ∧ t.done = true ∧ t.rngwait = false ∧ t.outcome.toNat ≤ 4) ∨
     (drawingCommand i = true ∧ t = s.requestDraw))

/-- R28: the transitions of the sequencer phase and what causes each; there are no others, and a turn of the core
always leaves RUN. -/
def Obligations.PhaseTransitions : Prop :=
  ∀ s t : State, step s = .next t →
    ((s.phase = t.phase ∧ (Spec.event s = .core → s.phase ≠ .run)) ∨
     (s.phase = .idle ∧ t.phase = .run ∧ ∃ v, Spec.event s = .host (.write 0x004#10 4 v)) ∨
     (s.phase = .run ∧ t.phase = .wait ∧ Spec.event s = .core ∧
        ∃ i, decode s.cmd = .ok i ∧ drawingCommand i = true) ∨
     (s.phase = .wait ∧ t.phase = .run ∧ ∃ v f d, Spec.event s = .entropy v f d ∧ (v = true ∨ f = true)) ∨
     (s.phase = .run ∧ t.phase = .idle ∧ Spec.event s = .core ∧ t.done = true) ∨
     (t.phase = .idle ∧ Spec.isReset (Spec.event s)))

/-- Every step keeps the invariant, from every state that has it. -/
def Obligations.StepKeepsInvariant : Prop :=
  ∀ s t : State, s.Inv → step s = .next t → t.Inv

/-- The invariant holds after reset. -/
def Obligations.ResetHasInvariant : Prop := State.reset.Inv

/-- R271: no step faults; a step is refused exactly when the host starts a transaction while `rst` is 1; and where the
surroundings keep that duty every run goes on. -/
def Obligations.RunsNeverStop : Prop :=
  (∀ (s : State) (f : Fault), step s ≠ .fault f) ∧
  (∀ (s : State) (r : Refusal), step s = .refused r ↔
    r = .hostDuringReset ∧ ∃ t rest, s.agenda = .reset (some t) :: rest) ∧
  (∀ s : State, s.agendaKeepsDuty → Safe s)

/-- R41: the values after reset, and the constants its table lists (those of R7, R9 and R31). -/
def Obligations.ResetValues : Prop :=
  (∀ i : Index, State.reset.reg i = 0) ∧ State.reset.pktag = 0 ∧ State.reset.cmd = 0 ∧ State.reset.busy = false ∧
  State.reset.done = false ∧ State.reset.rngwait = false ∧ State.reset.outcome = 0 ∧
  State.reset.flags = ⟨false, false, false⟩ ∧ State.reset.ie = false ∧ State.reset.fsticky = 0 ∧
  State.reset.phase = .idle ∧ State.reset.hidden = none ∧ rngReq State.reset = false ∧ irq State.reset = false ∧
  (memRead State.reset 0x000#10 4).portAnswer = some (.read .okay 0x50323536#32) ∧
  Config.p = 2 ^ 256 - 2 ^ 224 + 2 ^ 192 + 2 ^ 96 - 1 ∧ Config.a = Config.p - 3 ∧
  Config.n = 0xffffffff00000000ffffffffffffffffbce6faada7179e84f3b9cac2fc632551 ∧
  Config.b = 0x5ac635d8aa3a93e7b3ebbd55769886bc651d06b0cc53b0f63bce3c3e27d2604b ∧
  Config.gx = 0x6b17d1f2e12c4247f8bce6e563a440f277037d812deb33a0f4a13945d898c296 ∧
  Config.gy = 0x4fe342e2fe1a7f9b8ee7eb4a7c0f9e162bce33576b315ececbb6406837bf51f5

/-- R264: after reset ID reads its constant, every other mapped word reads 0, and nothing else answers OKAY. -/
def Obligations.ResetWindowReads : Prop :=
  ∀ a : Offset,
    (memRead State.reset a 4).portAnswer =
      some (if a.toNat % 4 ≠ 0 ∨ 0x01C ≤ a.toNat ∧ a.toNat < 0x200 then .read .error 0#32
        else if a.toNat = 0 then .read .okay 0x50323536#32 else .read .okay 0#32)

/-- R261, R262: a cycle of `rst`, and a CTRL write with SRST = 1, put every piece of the core's state at its reset value,
from any state. The agenda that stays and the port answer that a cycle of `rst` clears are the model's own fields
(DESIGN CHOICE, log entries 1 and 6). -/
def Obligations.HardAndSoftReset : Prop :=
  ∀ (s : State) (v : Word) (rest : List Event),
    (s.agenda = .reset none :: rest → step s = .next { State.reset with agenda := rest }) ∧
    (v.getLsbD 1 = true → s.agenda = .host (.write 0x010#10 4 v) :: rest →
      step s = .next { State.reset with agenda := rest, portAnswer := some (.write .okay) })

/-- R62, R63, R65: a wrong size, a misaligned or an unmapped offset is answered ERROR and changes no state. -/
def Obligations.BadTransactionsChangeNothing : Prop :=
  ∀ (s : State) (a : Offset) (size : Nat) (v : Word),
    size ≠ 4 ∨ a.toNat % 4 ≠ 0 ∨ (0x01C ≤ a.toNat ∧ a.toNat < 0x200) →
    memRead s a size = { s with portAnswer := some (.read .error 0#32) } ∧
    memWrite s a size v = { s with portAnswer := some (.write .error) }

/-- R67: the data of a read of every mapped offset, and its one side effect. -/
def Obligations.MemReadTable : Prop :=
  ∀ s : State,
    let okay := fun (d : Word) => ({ s with portAnswer := some (.read .okay d) } : State)
    let bit := fun (x : Bool) => x.toNat
    memRead s 0x000#10 4 = okay 0x50323536#32 ∧
    memRead s 0x004#10 4 = okay s.cmd ∧
    memRead s 0x008#10 4 =
      okay (BitVec.ofNat 32 (s.outcome.toNat * 16 + bit s.rngwait * 4 + bit s.done * 2 + bit s.busy)) ∧
    memRead s 0x00C#10 4 = okay (BitVec.ofNat 32 (bit s.flags.t * 4 + bit s.flags.inf * 2 + bit s.flags.z)) ∧
    memRead s 0x010#10 4 = okay (BitVec.ofNat 32 (bit s.ie)) ∧
    memRead s 0x014#10 4 = okay s.fsticky ∧
    (s.busy = false → memRead s 0x018#10 4 = okay (BitVec.ofNat 32 s.pktag.toNat)) ∧
    (s.busy = false → ∀ i j, i < 16 → j < 8 →
      memRead s (BitVec.ofNat 10 (0x200 + 32 * i + 4 * j)) 4 =
        okay (BitVec.ofNat 32 ((s.reg (BitVec.ofNat 4 i)).toNat / 2 ^ (224 - 32 * j)))) ∧
    (s.busy = true →
      memRead s 0x018#10 4 = { okay 0#32 with fsticky := s.fsticky ||| 0x100#32 } ∧
      ∀ i j, i < 16 → j < 8 →
        memRead s (BitVec.ofNat 10 (0x200 + 32 * i + 4 * j)) 4 = { okay 0#32 with fsticky := s.fsticky ||| 0x100#32 })

/-- R68: a write of `ID`, `STATUS`, `FLAGS` and `FSTICKY`, of `CTRL` with SRST = 0, and of `PKTAG` while idle. `CMD` is
in `AcceptanceStep` and `BusyWritesDropped`, SRST = 1 in `HardAndSoftReset`, `PKTAG` while BUSY in `BusyWritesDropped`. -/
def Obligations.ControlWriteTable : Prop :=
  ∀ (s : State) (v : Word),
    let okay := fun (t : State) => ({ t with portAnswer := some (.write .okay) } : State)
    memWrite s 0x000#10 4 v = okay s ∧
    memWrite s 0x008#10 4 v = okay { s with done := s.done && !v.getLsbD 1 } ∧
    memWrite s 0x00C#10 4 v = okay s ∧
    (v.getLsbD 1 = false → memWrite s 0x010#10 4 v = okay { s with ie := v.getLsbD 0 }) ∧
    memWrite s 0x014#10 4 v = okay { s with fsticky := s.fsticky &&& ~~~(v &&& 0x0000013E#32) } ∧
    (s.busy = false → memWrite s 0x018#10 4 v = okay { s with pktag := BitVec.ofNat 8 v.toNat })

/-- R268, R269: CMD, PKTAG and operand writes while BUSY are answered OKAY, dropped, and set FSTICKY[8]. -/
def Obligations.BusyWritesDropped : Prop :=
  ∀ (s : State) (a : Offset) (v : Word), s.busy = true →
    (a = 0x004#10 ∨ a = 0x018#10 ∨ (a.toNat % 4 = 0 ∧ 0x200 ≤ a.toNat)) →
    memWrite s a 4 v = { s with fsticky := s.fsticky ||| 0x100#32, portAnswer := some (.write .okay) }

/-- R70, R77: an operand word written while idle is read back, every other word of the window's registers is as
before, and nothing but that register changes. -/
def Obligations.OperandWordWriteThenRead : Prop :=
  ∀ (s : State) (v : Word) (i j i' j' : Nat), s.busy = false → i < 16 → j < 8 → i' < 16 → j' < 8 →
    let a := BitVec.ofNat 10 (0x200 + 32 * i + 4 * j)
    let a' := BitVec.ofNat 10 (0x200 + 32 * i' + 4 * j')
    let t := memWrite s a 4 v
    (memRead t a 4).portAnswer = some (.read .okay v) ∧
    ((i, j) ≠ (i', j') → (memRead t a' 4).portAnswer = (memRead s a' 4).portAnswer) ∧
    { t with regs := s.regs, portAnswer := s.portAnswer } = s

/-- R64, R66: the four bytes of an operand word, from the lowest offset up, are bytes 4 j to 4 j + 3 of the register as a
big-endian 32-byte buffer. -/
def Obligations.WindowIsBigEndian : Prop :=
  ∀ (s : State) (i j t : Nat), s.busy = false → i < 16 → j < 8 → t < 4 →
    ∃ d, (memRead s (BitVec.ofNat 10 (0x200 + 32 * i + 4 * j)) 4).portAnswer = some (.read .okay d) ∧
      wordByte d t = valueByte (s.reg (BitVec.ofNat 4 i)) (4 * j + t) ∧
      (wordByte d t).toNat = (s.reg (BitVec.ofNat 4 i)).toNat / 256 ^ (31 - (4 * j + t)) % 256

/-- R230: irq is DONE and IE: a completion raises it where IE is set, acceptance, the clearing of DONE and both resets
take it down. -/
def Obligations.InterruptOutput : Prop :=
  ∀ s : State,
    irq s = (s.done && s.ie) ∧
    (∀ i t, exec i s = .next t → t.hidden = none → irq t = s.ie) ∧
    (∀ w, s.busy = false → irq (memWrite s 0x004#10 4 w) = false) ∧
    (∀ v, v.getLsbD 1 = true → irq (memWrite s 0x008#10 4 v) = false) ∧
    irq s.hardReset = false ∧ (∀ v, v.getLsbD 1 = true → irq (memWrite s 0x010#10 4 v) = false)

/-- R236, R261: the entropy lines end a wait with exactly one answer, a failure if both are asserted; with no request up,
in every phase and so also after a reset, they are ignored; and a waiting core does nothing on its own turn. -/
def Obligations.EntropyHandshake : Prop :=
  ∀ (s : State) (valid fail : Bool) (data : Value) (rest : List Event),
    rngReq s = s.rngwait ∧
    (s.agenda = .entropy valid fail data :: rest →
      (s.rngwait = false ∨ (valid = false ∧ fail = false) → step s = .next { s with agenda := rest }) ∧
      ∀ h : Hidden, s.hidden = some h → s.rngwait = true →
        (fail = true → step s = .next { s with
          agenda := rest, rngwait := false, hidden := some { h with drawn := some .unavailable } }) ∧
        (fail = false → valid = true → step s = .next { s with
          agenda := rest, rngwait := false, hidden := some { h with drawn := some (.value data) } })) ∧
    (s.busy = true → s.rngwait = true →
      (s.agenda = .core :: rest → step s = .next { s with agenda := rest }) ∧ (s.agenda = [] → step s = .next s))

/-- R37: a sticky bit is lost only to a host write of FSTICKY with that bit 1, or to a reset. -/
def Obligations.StickyBitsStay : Prop :=
  ∀ (s t : State) (c : Nat), step s = .next t → s.fsticky.getLsbD c = true → t.fsticky.getLsbD c = false →
    (∃ v, Spec.event s = .host (.write 0x014#10 4 v) ∧ v.getLsbD c = true ∧ (c = 8 ∨ 1 ≤ c ∧ c ≤ 5)) ∨
    Spec.isReset (Spec.event s)

/-- R39: no host transaction's answer or effect, and no output, depends on the hidden state. -/
def Obligations.HiddenStateUnobservable : Prop :=
  ∀ (s : State) (h' : Hidden) (tr : Transaction),
    let s' : State := { s with hidden := some h' }
    { serve s' tr with hidden := none } = { serve s tr with hidden := none } ∧ irq s' = irq s ∧ rngReq s' = rngReq s

/-- R190: what a command completes with depends only on its sampled operands and its draws: two states that hold the
same hidden state end with the same outcome, flags (but for NOP), destination registers and written tag. -/
def Obligations.ResultDependsOnSampledStateOnly : Prop :=
  ∀ (i : Instr) (s s' t t' : State) (h : Hidden), i.wellFormed = true → s.hidden = some h → s'.hidden = some h →
    exec i s = .next t → exec i s' = .next t' →
    t.hidden = t'.hidden ∧
    (t.hidden = none →
      t.outcome = t'.outcome ∧ (i ≠ .nop → t.flags = t'.flags) ∧
      (t.outcome = 0 → (∀ k ∈ Spec.dests i, t.regs[k]? = t'.regs[k]?) ∧ (Spec.writesTag i = true → t.pktag = t'.pktag)))
end

