-- ==== Sys2Proof/Laws/Modular.lean ====
section
/-! SUPPORT. What the modular operations compute: an exact result and a value below the modulus. -/

namespace Sys2Proof.Machine

theorem addMod_lt {m : Nat} (hm : 0 < m) (a b : Nat) : addMod m a b < m := Nat.mod_lt _ hm
theorem subMod_lt {m : Nat} (hm : 0 < m) (a b : Nat) : subMod m a b < m := Nat.mod_lt _ hm
theorem mulMod_lt {m : Nat} (hm : 0 < m) (a b : Nat) : mulMod m a b < m := Nat.mod_lt _ hm
theorem sqrMod_lt {m : Nat} (hm : 0 < m) (a : Nat) : sqrMod m a < m := Nat.mod_lt _ hm

/-- The difference is a - b where that is not negative, else a - b + m (R113). -/
theorem subMod_eq {m a b : Nat} (ha : a < m) (hb : b < m) :
    subMod m a b = if a < b then a + m - b else a - b := by
  unfold subMod
  split
  · exact Nat.mod_eq_of_lt (by omega)
  · rw [show a + m - b = (a - b) + m by omega, Nat.add_mod_right]
    exact Nat.mod_eq_of_lt (by omega)

/-- The k squarings compute the power, for an exponent below 2^k. -/
theorem powModBits_eq (m : Nat) : ∀ (k a e : Nat), e < 2 ^ k → powModBits m k a e = a ^ e % m
  | 0, a, e, he => by
    have : e = 0 := by simpa using he
    simp [powModBits, this]
  | k + 1, a, e, he => by
    have ih := powModBits_eq m k (a * a % m) (e / 2) (by omega)
    have key : (a * a % m) ^ (e / 2) % m = a ^ (2 * (e / 2)) % m := by
      rw [← Nat.pow_mod, pow_mul, pow_two]
    unfold powModBits
    split
    · rw [ih, key, Nat.mul_mod_mod, ← pow_succ', show 2 * (e / 2) + 1 = e by omega]
    · rw [ih, key, show 2 * (e / 2) = e by omega]

/-- `powMod` is the power modulo m, for a 256-bit exponent. -/
theorem powMod_eq {m a e : Nat} (he : e < 2 ^ 256) : powMod m a e = a ^ e % m := powModBits_eq m 256 a e he

theorem invMod_eq {m a : Nat} (hm : m < 2 ^ 256) : invMod m a = a ^ (m - 2) % m :=
  powMod_eq (lt_of_le_of_lt (Nat.sub_le m 2) hm)

theorem p_lt_two_pow : Config.p < 2 ^ 256 := by decide
theorem n_lt_two_pow : Config.n < 2 ^ 256 := by decide
theorem p_pos : 0 < Config.p := by decide
theorem n_pos : 0 < Config.n := by decide

/-- A residue modulo p is read back from the register it is written to. -/
theorem toNat_ofNat_of_lt_p {v : Nat} (h : v < Config.p) : (BitVec.ofNat 256 v).toNat = v := by
  rw [BitVec.toNat_ofNat]
  exact Nat.mod_eq_of_lt (h.trans p_lt_two_pow)

/-- A residue modulo n is read back from the register it is written to. -/
theorem toNat_ofNat_of_lt_n {v : Nat} (h : v < Config.n) : (BitVec.ofNat 256 v).toNat = v := by
  rw [BitVec.toNat_ofNat]
  exact Nat.mod_eq_of_lt (h.trans n_lt_two_pow)

end Sys2Proof.Machine
end

