-- ==== Sys2Proof/Laws/State.lean ====
section
/-! SUPPORT. What each state update does to each field, and how registers read after a write. Every lemma of the first
part is true by computation, so that no later proof unfolds a record update. -/

namespace Sys2Proof.Machine

@[simp] theorem State.setReg_regs (s : State) (i : Index) (v : Value) : (s.setReg i v).regs = s.regs.set i.toNat v := rfl
@[simp] theorem State.setReg_pktag (s : State) (i : Index) (v : Value) : (s.setReg i v).pktag = s.pktag := rfl
@[simp] theorem State.setReg_cmd (s : State) (i : Index) (v : Value) : (s.setReg i v).cmd = s.cmd := rfl
@[simp] theorem State.setReg_busy (s : State) (i : Index) (v : Value) : (s.setReg i v).busy = s.busy := rfl
@[simp] theorem State.setReg_done (s : State) (i : Index) (v : Value) : (s.setReg i v).done = s.done := rfl
@[simp] theorem State.setReg_rngwait (s : State) (i : Index) (v : Value) : (s.setReg i v).rngwait = s.rngwait := rfl
@[simp] theorem State.setReg_outcome (s : State) (i : Index) (v : Value) : (s.setReg i v).outcome = s.outcome := rfl
@[simp] theorem State.setReg_flags (s : State) (i : Index) (v : Value) : (s.setReg i v).flags = s.flags := rfl
@[simp] theorem State.setReg_ie (s : State) (i : Index) (v : Value) : (s.setReg i v).ie = s.ie := rfl
@[simp] theorem State.setReg_fsticky (s : State) (i : Index) (v : Value) : (s.setReg i v).fsticky = s.fsticky := rfl
@[simp] theorem State.setReg_hidden (s : State) (i : Index) (v : Value) : (s.setReg i v).hidden = s.hidden := rfl
@[simp] theorem State.setReg_agenda (s : State) (i : Index) (v : Value) : (s.setReg i v).agenda = s.agenda := rfl
@[simp] theorem State.setReg_portAnswer (s : State) (i : Index) (v : Value) : (s.setReg i v).portAnswer = s.portAnswer := rfl

@[simp] theorem State.setTag_regs (s : State) (t : Byte) : (s.setTag t).regs = s.regs := rfl
@[simp] theorem State.setTag_pktag (s : State) (t : Byte) : (s.setTag t).pktag = t := rfl
@[simp] theorem State.setTag_cmd (s : State) (t : Byte) : (s.setTag t).cmd = s.cmd := rfl
@[simp] theorem State.setTag_busy (s : State) (t : Byte) : (s.setTag t).busy = s.busy := rfl
@[simp] theorem State.setTag_done (s : State) (t : Byte) : (s.setTag t).done = s.done := rfl
@[simp] theorem State.setTag_rngwait (s : State) (t : Byte) : (s.setTag t).rngwait = s.rngwait := rfl
@[simp] theorem State.setTag_outcome (s : State) (t : Byte) : (s.setTag t).outcome = s.outcome := rfl
@[simp] theorem State.setTag_flags (s : State) (t : Byte) : (s.setTag t).flags = s.flags := rfl
@[simp] theorem State.setTag_ie (s : State) (t : Byte) : (s.setTag t).ie = s.ie := rfl
@[simp] theorem State.setTag_fsticky (s : State) (t : Byte) : (s.setTag t).fsticky = s.fsticky := rfl
@[simp] theorem State.setTag_hidden (s : State) (t : Byte) : (s.setTag t).hidden = s.hidden := rfl
@[simp] theorem State.setTag_agenda (s : State) (t : Byte) : (s.setTag t).agenda = s.agenda := rfl
@[simp] theorem State.setTag_portAnswer (s : State) (t : Byte) : (s.setTag t).portAnswer = s.portAnswer := rfl

@[simp] theorem State.setPoint_pktag (s : State) (i : Index) (t : Triple) : (s.setPoint i t).pktag = s.pktag := rfl
@[simp] theorem State.setPoint_cmd (s : State) (i : Index) (t : Triple) : (s.setPoint i t).cmd = s.cmd := rfl
@[simp] theorem State.setPoint_busy (s : State) (i : Index) (t : Triple) : (s.setPoint i t).busy = s.busy := rfl
@[simp] theorem State.setPoint_done (s : State) (i : Index) (t : Triple) : (s.setPoint i t).done = s.done := rfl
@[simp] theorem State.setPoint_rngwait (s : State) (i : Index) (t : Triple) : (s.setPoint i t).rngwait = s.rngwait := rfl
@[simp] theorem State.setPoint_outcome (s : State) (i : Index) (t : Triple) : (s.setPoint i t).outcome = s.outcome := rfl
@[simp] theorem State.setPoint_flags (s : State) (i : Index) (t : Triple) : (s.setPoint i t).flags = s.flags := rfl
@[simp] theorem State.setPoint_ie (s : State) (i : Index) (t : Triple) : (s.setPoint i t).ie = s.ie := rfl
@[simp] theorem State.setPoint_fsticky (s : State) (i : Index) (t : Triple) : (s.setPoint i t).fsticky = s.fsticky := rfl
@[simp] theorem State.setPoint_hidden (s : State) (i : Index) (t : Triple) : (s.setPoint i t).hidden = s.hidden := rfl
@[simp] theorem State.setPoint_agenda (s : State) (i : Index) (t : Triple) : (s.setPoint i t).agenda = s.agenda := rfl
@[simp] theorem State.setPoint_portAnswer (s : State) (i : Index) (t : Triple) : (s.setPoint i t).portAnswer = s.portAnswer := rfl

@[simp] theorem State.setPair_pktag (s : State) (i : Index) (u v : Nat) : (s.setPair i u v).pktag = s.pktag := rfl
@[simp] theorem State.setPair_cmd (s : State) (i : Index) (u v : Nat) : (s.setPair i u v).cmd = s.cmd := rfl
@[simp] theorem State.setPair_busy (s : State) (i : Index) (u v : Nat) : (s.setPair i u v).busy = s.busy := rfl
@[simp] theorem State.setPair_done (s : State) (i : Index) (u v : Nat) : (s.setPair i u v).done = s.done := rfl
@[simp] theorem State.setPair_rngwait (s : State) (i : Index) (u v : Nat) : (s.setPair i u v).rngwait = s.rngwait := rfl
@[simp] theorem State.setPair_outcome (s : State) (i : Index) (u v : Nat) : (s.setPair i u v).outcome = s.outcome := rfl
@[simp] theorem State.setPair_flags (s : State) (i : Index) (u v : Nat) : (s.setPair i u v).flags = s.flags := rfl
@[simp] theorem State.setPair_ie (s : State) (i : Index) (u v : Nat) : (s.setPair i u v).ie = s.ie := rfl
@[simp] theorem State.setPair_fsticky (s : State) (i : Index) (u v : Nat) : (s.setPair i u v).fsticky = s.fsticky := rfl
@[simp] theorem State.setPair_hidden (s : State) (i : Index) (u v : Nat) : (s.setPair i u v).hidden = s.hidden := rfl
@[simp] theorem State.setPair_agenda (s : State) (i : Index) (u v : Nat) : (s.setPair i u v).agenda = s.agenda := rfl
@[simp] theorem State.setPair_portAnswer (s : State) (i : Index) (u v : Nat) : (s.setPair i u v).portAnswer = s.portAnswer := rfl

@[simp] theorem State.accept_regs (s : State) (w : Word) : (s.accept w).regs = s.regs := rfl
@[simp] theorem State.accept_pktag (s : State) (w : Word) : (s.accept w).pktag = s.pktag := rfl
@[simp] theorem State.accept_cmd (s : State) (w : Word) : (s.accept w).cmd = w := rfl
@[simp] theorem State.accept_busy (s : State) (w : Word) : (s.accept w).busy = true := rfl
@[simp] theorem State.accept_done (s : State) (w : Word) : (s.accept w).done = false := rfl
@[simp] theorem State.accept_rngwait (s : State) (w : Word) : (s.accept w).rngwait = false := rfl
@[simp] theorem State.accept_outcome (s : State) (w : Word) : (s.accept w).outcome = 0 := rfl
@[simp] theorem State.accept_flags (s : State) (w : Word) : (s.accept w).flags = s.flags := rfl
@[simp] theorem State.accept_ie (s : State) (w : Word) : (s.accept w).ie = s.ie := rfl
@[simp] theorem State.accept_fsticky (s : State) (w : Word) : (s.accept w).fsticky = s.fsticky := rfl
@[simp] theorem State.accept_hidden (s : State) (w : Word) : (s.accept w).hidden = some s.sample := rfl
@[simp] theorem State.accept_agenda (s : State) (w : Word) : (s.accept w).agenda = s.agenda := rfl
@[simp] theorem State.accept_portAnswer (s : State) (w : Word) : (s.accept w).portAnswer = s.portAnswer := rfl

@[simp] theorem State.finish_regs (s : State) (c : BitVec 4) : (s.finish c).regs = s.regs := rfl
@[simp] theorem State.finish_pktag (s : State) (c : BitVec 4) : (s.finish c).pktag = s.pktag := rfl
@[simp] theorem State.finish_cmd (s : State) (c : BitVec 4) : (s.finish c).cmd = s.cmd := rfl
@[simp] theorem State.finish_busy (s : State) (c : BitVec 4) : (s.finish c).busy = false := rfl
@[simp] theorem State.finish_done (s : State) (c : BitVec 4) : (s.finish c).done = true := rfl
@[simp] theorem State.finish_rngwait (s : State) (c : BitVec 4) : (s.finish c).rngwait = false := rfl
@[simp] theorem State.finish_outcome (s : State) (c : BitVec 4) : (s.finish c).outcome = c := rfl
@[simp] theorem State.finish_flags (s : State) (c : BitVec 4) : (s.finish c).flags = s.flags := rfl
@[simp] theorem State.finish_ie (s : State) (c : BitVec 4) : (s.finish c).ie = s.ie := rfl
@[simp] theorem State.finish_fsticky (s : State) (c : BitVec 4) : (s.finish c).fsticky = s.fsticky := rfl
@[simp] theorem State.finish_hidden (s : State) (c : BitVec 4) : (s.finish c).hidden = none := rfl
@[simp] theorem State.finish_agenda (s : State) (c : BitVec 4) : (s.finish c).agenda = s.agenda := rfl
@[simp] theorem State.finish_portAnswer (s : State) (c : BitVec 4) : (s.finish c).portAnswer = s.portAnswer := rfl

@[simp] theorem State.complete_regs (s : State) (f : Flags) : (s.complete f).regs = s.regs := rfl
@[simp] theorem State.complete_pktag (s : State) (f : Flags) : (s.complete f).pktag = s.pktag := rfl
@[simp] theorem State.complete_cmd (s : State) (f : Flags) : (s.complete f).cmd = s.cmd := rfl
@[simp] theorem State.complete_busy (s : State) (f : Flags) : (s.complete f).busy = false := rfl
@[simp] theorem State.complete_done (s : State) (f : Flags) : (s.complete f).done = true := rfl
@[simp] theorem State.complete_rngwait (s : State) (f : Flags) : (s.complete f).rngwait = false := rfl
@[simp] theorem State.complete_outcome (s : State) (f : Flags) : (s.complete f).outcome = 0 := rfl
@[simp] theorem State.complete_flags (s : State) (f : Flags) : (s.complete f).flags = f := rfl
@[simp] theorem State.complete_ie (s : State) (f : Flags) : (s.complete f).ie = s.ie := rfl
@[simp] theorem State.complete_fsticky (s : State) (f : Flags) : (s.complete f).fsticky = s.fsticky := rfl
@[simp] theorem State.complete_hidden (s : State) (f : Flags) : (s.complete f).hidden = none := rfl
@[simp] theorem State.complete_agenda (s : State) (f : Flags) : (s.complete f).agenda = s.agenda := rfl
@[simp] theorem State.complete_portAnswer (s : State) (f : Flags) : (s.complete f).portAnswer = s.portAnswer := rfl

@[simp] theorem State.raise_regs (s : State) (f : Failure) : (s.raise f).regs = s.regs := rfl
@[simp] theorem State.raise_pktag (s : State) (f : Failure) : (s.raise f).pktag = s.pktag := rfl
@[simp] theorem State.raise_cmd (s : State) (f : Failure) : (s.raise f).cmd = s.cmd := rfl
@[simp] theorem State.raise_busy (s : State) (f : Failure) : (s.raise f).busy = false := rfl
@[simp] theorem State.raise_done (s : State) (f : Failure) : (s.raise f).done = true := rfl
@[simp] theorem State.raise_rngwait (s : State) (f : Failure) : (s.raise f).rngwait = false := rfl
@[simp] theorem State.raise_outcome (s : State) (f : Failure) : (s.raise f).outcome = failureCode f := rfl
@[simp] theorem State.raise_flags (s : State) (f : Failure) : (s.raise f).flags = flagsClear := rfl
@[simp] theorem State.raise_ie (s : State) (f : Failure) : (s.raise f).ie = s.ie := rfl
@[simp] theorem State.raise_fsticky (s : State) (f : Failure) : (s.raise f).fsticky = s.fsticky ||| (1#32 <<< (failureCode f).toNat) := rfl
@[simp] theorem State.raise_hidden (s : State) (f : Failure) : (s.raise f).hidden = none := rfl
@[simp] theorem State.raise_agenda (s : State) (f : Failure) : (s.raise f).agenda = s.agenda := rfl
@[simp] theorem State.raise_portAnswer (s : State) (f : Failure) : (s.raise f).portAnswer = s.portAnswer := rfl

@[simp] theorem State.requestDraw_regs (s : State) : s.requestDraw.regs = s.regs := rfl
@[simp] theorem State.requestDraw_pktag (s : State) : s.requestDraw.pktag = s.pktag := rfl
@[simp] theorem State.requestDraw_cmd (s : State) : s.requestDraw.cmd = s.cmd := rfl
@[simp] theorem State.requestDraw_busy (s : State) : s.requestDraw.busy = s.busy := rfl
@[simp] theorem State.requestDraw_done (s : State) : s.requestDraw.done = s.done := rfl
@[simp] theorem State.requestDraw_rngwait (s : State) : s.requestDraw.rngwait = true := rfl
@[simp] theorem State.requestDraw_outcome (s : State) : s.requestDraw.outcome = s.outcome := rfl
@[simp] theorem State.requestDraw_flags (s : State) : s.requestDraw.flags = s.flags := rfl
@[simp] theorem State.requestDraw_ie (s : State) : s.requestDraw.ie = s.ie := rfl
@[simp] theorem State.requestDraw_fsticky (s : State) : s.requestDraw.fsticky = s.fsticky := rfl
@[simp] theorem State.requestDraw_hidden (s : State) : s.requestDraw.hidden = some { s.held with draws := s.held.draws + 1, drawn := none } := rfl
@[simp] theorem State.requestDraw_agenda (s : State) : s.requestDraw.agenda = s.agenda := rfl
@[simp] theorem State.requestDraw_portAnswer (s : State) : s.requestDraw.portAnswer = s.portAnswer := rfl

@[simp] theorem State.violation_regs (s : State) : s.violation.regs = s.regs := rfl
@[simp] theorem State.violation_pktag (s : State) : s.violation.pktag = s.pktag := rfl
@[simp] theorem State.violation_cmd (s : State) : s.violation.cmd = s.cmd := rfl
@[simp] theorem State.violation_busy (s : State) : s.violation.busy = s.busy := rfl
@[simp] theorem State.violation_done (s : State) : s.violation.done = s.done := rfl
@[simp] theorem State.violation_rngwait (s : State) : s.violation.rngwait = s.rngwait := rfl
@[simp] theorem State.violation_outcome (s : State) : s.violation.outcome = s.outcome := rfl
@[simp] theorem State.violation_flags (s : State) : s.violation.flags = s.flags := rfl
@[simp] theorem State.violation_ie (s : State) : s.violation.ie = s.ie := rfl
@[simp] theorem State.violation_fsticky (s : State) : s.violation.fsticky = s.fsticky ||| 0x100#32 := rfl
@[simp] theorem State.violation_hidden (s : State) : s.violation.hidden = s.hidden := rfl
@[simp] theorem State.violation_agenda (s : State) : s.violation.agenda = s.agenda := rfl
@[simp] theorem State.violation_portAnswer (s : State) : s.violation.portAnswer = s.portAnswer := rfl

@[simp] theorem State.respond_regs (s : State) (a : PortAnswer) : (s.respond a).regs = s.regs := rfl
@[simp] theorem State.respond_pktag (s : State) (a : PortAnswer) : (s.respond a).pktag = s.pktag := rfl
@[simp] theorem State.respond_cmd (s : State) (a : PortAnswer) : (s.respond a).cmd = s.cmd := rfl
@[simp] theorem State.respond_busy (s : State) (a : PortAnswer) : (s.respond a).busy = s.busy := rfl
@[simp] theorem State.respond_done (s : State) (a : PortAnswer) : (s.respond a).done = s.done := rfl
@[simp] theorem State.respond_rngwait (s : State) (a : PortAnswer) : (s.respond a).rngwait = s.rngwait := rfl
@[simp] theorem State.respond_outcome (s : State) (a : PortAnswer) : (s.respond a).outcome = s.outcome := rfl
@[simp] theorem State.respond_flags (s : State) (a : PortAnswer) : (s.respond a).flags = s.flags := rfl
@[simp] theorem State.respond_ie (s : State) (a : PortAnswer) : (s.respond a).ie = s.ie := rfl
@[simp] theorem State.respond_fsticky (s : State) (a : PortAnswer) : (s.respond a).fsticky = s.fsticky := rfl
@[simp] theorem State.respond_hidden (s : State) (a : PortAnswer) : (s.respond a).hidden = s.hidden := rfl
@[simp] theorem State.respond_agenda (s : State) (a : PortAnswer) : (s.respond a).agenda = s.agenda := rfl
@[simp] theorem State.respond_portAnswer (s : State) (a : PortAnswer) : (s.respond a).portAnswer = some a := rfl

@[simp] theorem State.hardReset_regs (s : State) : s.hardReset.regs = State.reset.regs := rfl
@[simp] theorem State.hardReset_pktag (s : State) : s.hardReset.pktag = State.reset.pktag := rfl
@[simp] theorem State.hardReset_cmd (s : State) : s.hardReset.cmd = State.reset.cmd := rfl
@[simp] theorem State.hardReset_busy (s : State) : s.hardReset.busy = State.reset.busy := rfl
@[simp] theorem State.hardReset_done (s : State) : s.hardReset.done = State.reset.done := rfl
@[simp] theorem State.hardReset_rngwait (s : State) : s.hardReset.rngwait = State.reset.rngwait := rfl
@[simp] theorem State.hardReset_outcome (s : State) : s.hardReset.outcome = State.reset.outcome := rfl
@[simp] theorem State.hardReset_flags (s : State) : s.hardReset.flags = State.reset.flags := rfl
@[simp] theorem State.hardReset_ie (s : State) : s.hardReset.ie = State.reset.ie := rfl
@[simp] theorem State.hardReset_fsticky (s : State) : s.hardReset.fsticky = State.reset.fsticky := rfl
@[simp] theorem State.hardReset_hidden (s : State) : s.hardReset.hidden = State.reset.hidden := rfl
@[simp] theorem State.hardReset_agenda (s : State) : s.hardReset.agenda = s.agenda := rfl
@[simp] theorem State.hardReset_portAnswer (s : State) : s.hardReset.portAnswer = State.reset.portAnswer := rfl

@[simp] theorem State.softReset_eq_hardReset (s : State) : s.softReset = s.hardReset := rfl

theorem State.reg_setReg (s : State) (i j : Index) (v : Value) :
    (s.setReg i v).reg j = if i = j then v else s.reg j := by
  simp [State.reg, State.setReg, Vector.getElem_set, BitVec.toNat_inj]

@[simp] theorem State.reg_setReg_self (s : State) (i : Index) (v : Value) : (s.setReg i v).reg i = v := by
  simp [State.reg_setReg]

theorem State.reg_setReg_other (s : State) {i j : Index} (v : Value) (h : i ≠ j) : (s.setReg i v).reg j = s.reg j := by
  simp [State.reg_setReg, h]

theorem State.reg_setPair (s : State) (i j : Index) (u v : Nat) :
    (s.setPair i u v).reg j =
      if i + 1 = j then BitVec.ofNat 256 v else if i = j then BitVec.ofNat 256 u else s.reg j := by
  simp [State.setPair, State.reg_setReg]

theorem State.reg_setPoint (s : State) (i j : Index) (t : Triple) :
    (s.setPoint i t).reg j =
      if i + 2 = j then BitVec.ofNat 256 t.z else if i + 1 = j then BitVec.ofNat 256 t.y
      else if i = j then BitVec.ofNat 256 t.x else s.reg j := by
  simp [State.setPoint, State.reg_setReg]

@[simp] theorem State.sample_regs (s : State) : s.sample.regs = s.regs := rfl
@[simp] theorem State.sample_pktag (s : State) : s.sample.pktag = s.pktag := rfl
@[simp] theorem State.sample_draws (s : State) : s.sample.draws = 0 := rfl
@[simp] theorem State.sample_drawn (s : State) : s.sample.drawn = none := rfl

/-- While a command runs its sources are the held copy (R74). -/
theorem State.held_of_some {s : State} {h : Hidden} (hs : s.hidden = some h) : s.held = h := by
  simp [State.held, hs]

theorem State.source_of_some {s : State} {h : Hidden} (hs : s.hidden = some h) (i : Index) :
    s.source i = h.regs[i.toNat] := by
  simp only [State.source, State.held_of_some hs]

theorem State.sourceTag_of_some {s : State} {h : Hidden} (hs : s.hidden = some h) : s.sourceTag = h.pktag := by
  simp only [State.sourceTag, State.held_of_some hs]

/-- Right after acceptance a source is the register (R74). -/
theorem State.accept_source (s : State) (w : Word) (i : Index) : (s.accept w).source i = s.reg i := rfl

end Sys2Proof.Machine
end

