-- ==== Sys2Proof/Laws/Ops.lean ====
section
/-! SUPPORT. For each shared operation, once, everything it can answer. The provers cite these lemmas and do not unfold
the operations. -/

namespace Sys2Proof.Machine

theorem limitReached_iff (limit : Config.DrawLimit) (d : Nat) :
    limitReached limit d = true ↔ ∃ k, limit = some k ∧ d = k.val := by
  cases d with
  | zero => simp [limitReached]
  | succ d => cases limit <;> simp [limitReached]

theorem limitReached_zero (limit : Config.DrawLimit) : limitReached limit 0 = false := rfl

theorem drawAgain_cases (limit : Config.DrawLimit) (s : State) :
    (limitReached limit s.held.draws = true ∧ s.drawAgain limit = s.raise .randomUnavailable) ∨
    (limitReached limit s.held.draws = false ∧ s.drawAgain limit = s.requestDraw) := by
  cases h : limitReached limit s.held.draws <;> simp [State.drawAgain, h]

/-- The sampler completes with the attempt's state, or ends `RandomUnavailable`, or waits for one more draw. -/
theorem nextScalar_cases (limit : Config.DrawLimit) (attempt : Value → Option State) (s : State) :
    s.nextScalar limit attempt = s.raise .randomUnavailable ∨
    (limitReached limit s.held.draws = false ∧ s.nextScalar limit attempt = s.requestDraw) ∨
    (∃ v t, s.held.drawn = some (.value v) ∧ drawAccepted v = true ∧ attempt v = some t ∧
      s.nextScalar limit attempt = t) := by
  have again := drawAgain_cases limit s
  unfold State.nextScalar
  split
  · tauto
  · exact .inl rfl
  · rename_i v hv
    by_cases ha : drawAccepted v = true
    · cases ht : attempt v with
      | none => simp only [ha, if_true]; tauto
      | some t => exact .inr (.inr ⟨v, t, hv, ha, ht, by simp [ha]⟩)
    · simp only [ha]; tauto

theorem drawAccepted_iff (v : Value) : drawAccepted v = true ↔ 1 ≤ v.toNat ∧ v.toNat < Config.n := by
  simp only [drawAccepted, Bool.and_eq_true, bne_iff_ne, ne_eq, decide_eq_true_eq, ← BitVec.toNat_inj,
    BitVec.toNat_ofNat, Nat.zero_mod]
  omega

theorem scalarNonzero_iff (v : Nat) : scalarNonzero v = true ↔ 1 ≤ v ∧ v < Config.n := by
  simp [scalarNonzero]
  omega

theorem inRange_iff (t : Triple) : inRange t = true ↔ t.x < Config.p ∧ t.y < Config.p ∧ t.z < Config.p := by
  simp [inRange, and_assoc]

/-- A two-source residue command faults its operands or completes with the residue. -/
theorem residue2_cases (m : Nat) (f : Nat → Nat → Nat) (rd ra rb : Index) (s : State) :
    ((m ≤ (s.source ra).toNat ∨ m ≤ (s.source rb).toNat) ∧
      residue2 m f rd ra rb s = .next (s.raise .invalidOperand)) ∨
    ((s.source ra).toNat < m ∧ (s.source rb).toNat < m ∧
      residue2 m f rd ra rb s = .next (s.completeResidue rd (f (s.source ra).toNat (s.source rb).toNat))) := by
  unfold residue2
  by_cases h : m ≤ (s.source ra).toNat ∨ m ≤ (s.source rb).toNat
  · exact .inl ⟨h, by simp [h]⟩
  · refine .inr ⟨by omega, by omega, by simp only [h, if_false]⟩

/-- A one-source residue command faults its operand or completes with the residue. -/
theorem residue1_cases (m : Nat) (f : Nat → Nat) (rd ra : Index) (s : State) :
    (m ≤ (s.source ra).toNat ∧ residue1 m f rd ra s = .next (s.raise .invalidOperand)) ∨
    ((s.source ra).toNat < m ∧ residue1 m f rd ra s = .next (s.completeResidue rd (f (s.source ra).toNat))) := by
  unfold residue1
  by_cases h : m ≤ (s.source ra).toNat
  · exact .inl ⟨h, by simp [h]⟩
  · exact .inr ⟨by omega, by simp only [h, if_false]⟩

/-- A one-point command faults its operand or completes with the point. -/
theorem point1_cases (f : Triple → Triple) (rd ra : Index) (s : State) :
    (inRange (s.sourcePoint ra) = false ∧ point1 f rd ra s = .next (s.raise .invalidOperand)) ∨
    (inRange (s.sourcePoint ra) = true ∧ point1 f rd ra s = .next (s.completePoint rd (f (s.sourcePoint ra)))) := by
  unfold point1
  cases h : inRange (s.sourcePoint ra) <;> simp [h]

/-- A key decodes only to an affine point with a tag and an x the codec accepts. -/
theorem decodeKey_some {tag : Byte} {x : Value} {t : Triple} (h : decodeKey tag x = some t) :
    tagOk tag = true ∧ x.toNat < Config.p ∧ ∃ y, recoverY x.toNat (tag.toNat % 2) = some y ∧ t = ⟨x.toNat, y, 1⟩ := by
  unfold decodeKey at h
  split at h
  · cases h
  split at h
  · cases h
  split at h
  · cases h
  · rename_i ht hx _ y hy
    simp only [Option.some.injEq] at h
    exact ⟨by simpa using ht, by omega, y, hy, h.symm⟩

/-- One attempt of SIGN returns nonzero halves. -/
theorem signWith_some {d e k r sv : Nat} (h : signWith d e k = some (r, sv)) :
    r = reduceN (aff (scalarMul k Config.g)).x ∧ r ≠ 0 ∧
    sv = mulMod Config.n (invMod Config.n k) (addMod Config.n e (mulMod Config.n r d)) ∧ sv ≠ 0 := by
  unfold signWith at h
  simp only at h
  split at h
  · cases h
  split at h
  · cases h
  · rename_i hr hs
    simp only [Option.some.injEq, Prod.mk.injEq] at h
    obtain ⟨rfl, rfl⟩ := h
    exact ⟨rfl, hr, rfl, hs⟩

end Sys2Proof.Machine
end

