-- ==== Sys2Proof/Laws/Primes.lean ====
section
/-! SUPPORT. p and n are prime (spec/00_scope.md R8, R10), by Pratt certificates: for each prime q above a million a
primitive root and the factors of q - 1, each power computed by `powModBits`. -/

namespace Sys2Proof.Machine

/-- Lucas's test in the form of a certificate: a has order q - 1 modulo q, where `fs` are the primes of q - 1. -/
theorem prime_of_certificate (q a k : Nat) (fs : List (Nat × Nat)) (hq : 1 < q) (hk : q - 1 < 2 ^ k)
    (hprod : (fs.map fun f => f.1 ^ f.2).prod = q - 1) (hfs : ∀ f ∈ fs, f.1.Prime)
    (hone : powModBits q k a (q - 1) = 1)
    (hne : (fs.all fun f => powModBits q k a ((q - 1) / f.1) != 1) = true) : q.Prime := by
  have cast : ∀ e, e < 2 ^ k → (((powModBits q k a e : Nat) : ZMod q) = (a : ZMod q) ^ e) := by
    intro e he
    rw [powModBits_eq q k a e he, ZMod.natCast_mod, Nat.cast_pow]
  refine lucas_primality q (a : ZMod q) ?_ ?_
  · rw [← cast _ hk, hone, Nat.cast_one]
  · intro r hr hdvd hpow
    obtain ⟨x, hx, hrx⟩ := (Nat.Prime.prime hr).dvd_prod_iff.mp (hprod ▸ hdvd)
    obtain ⟨f, hf, rfl⟩ := List.mem_map.mp hx
    have hrf : r = f.1 := (Nat.prime_dvd_prime_iff_eq hr (hfs f hf)).mp (hr.dvd_of_dvd_pow hrx)
    have hlt : (q - 1) / r < 2 ^ k := lt_of_le_of_lt (Nat.div_le_self _ _) hk
    rw [← cast _ hlt] at hpow
    have hval : powModBits q k a ((q - 1) / r) % q = 1 % q := by
      have := (ZMod.natCast_eq_natCast_iff' _ 1 q).mp (by simpa using hpow)
      exact this
    have hsmall : powModBits q k a ((q - 1) / r) < q := by
      rw [powModBits_eq q k a _ hlt]
      exact Nat.mod_lt _ (by omega)
    rw [Nat.mod_eq_of_lt hsmall, Nat.mod_eq_of_lt hq] at hval
    have := List.all_eq_true.mp hne f hf
    rw [← hrf] at this
    simp [hval] at this

theorem prime_3969899 : Nat.Prime 3969899 := by
  refine prime_of_certificate 3969899 2 22 [(2, 1), (19, 1), (104471, 1)] (by decide) (by decide)
    (by decide +kernel) ?_ (by decide +kernel) (by decide +kernel)
  simp only [List.forall_mem_cons, List.not_mem_nil, false_implies, implies_true, and_true]
  exact ⟨by norm_num, by norm_num, by norm_num⟩

theorem prime_6700417 : Nat.Prime 6700417 := by
  refine prime_of_certificate 6700417 5 23 [(2, 7), (3, 1), (17449, 1)] (by decide) (by decide)
    (by decide +kernel) ?_ (by decide +kernel) (by decide +kernel)
  simp only [List.forall_mem_cons, List.not_mem_nil, false_implies, implies_true, and_true]
  exact ⟨by norm_num, by norm_num, by norm_num⟩

theorem prime_9350987 : Nat.Prime 9350987 := by
  refine prime_of_certificate 9350987 2 24 [(2, 1), (17, 1), (229, 1), (1201, 1)] (by decide) (by decide)
    (by decide +kernel) ?_ (by decide +kernel) (by decide +kernel)
  simp only [List.forall_mem_cons, List.not_mem_nil, false_implies, implies_true, and_true]
  exact ⟨by norm_num, by norm_num, by norm_num, by norm_num⟩

theorem prime_187019741 : Nat.Prime 187019741 := by
  refine prime_of_certificate 187019741 2 28 [(2, 2), (5, 1), (9350987, 1)] (by decide) (by decide)
    (by decide +kernel) ?_ (by decide +kernel) (by decide +kernel)
  simp only [List.forall_mem_cons, List.not_mem_nil, false_implies, implies_true, and_true]
  exact ⟨by norm_num, by norm_num, prime_9350987⟩

theorem prime_191039911 : Nat.Prime 191039911 := by
  refine prime_of_certificate 191039911 3 28 [(2, 1), (3, 1), (5, 1), (41, 1), (155317, 1)] (by decide) (by decide)
    (by decide +kernel) ?_ (by decide +kernel) (by decide +kernel)
  simp only [List.forall_mem_cons, List.not_mem_nil, false_implies, implies_true, and_true]
  exact ⟨by norm_num, by norm_num, by norm_num, by norm_num, by norm_num⟩

theorem prime_204061199 : Nat.Prime 204061199 := by
  refine prime_of_certificate 204061199 11 28 [(2, 1), (11, 1), (23, 1), (107, 1), (3769, 1)] (by decide) (by decide)
    (by decide +kernel) ?_ (by decide +kernel) (by decide +kernel)
  simp only [List.forall_mem_cons, List.not_mem_nil, false_implies, implies_true, and_true]
  exact ⟨by norm_num, by norm_num, by norm_num, by norm_num, by norm_num⟩

theorem prime_311245691 : Nat.Prime 311245691 := by
  refine prime_of_certificate 311245691 2 29 [(2, 1), (5, 1), (7, 1), (17, 1), (29, 2), (311, 1)] (by decide) (by decide)
    (by decide +kernel) ?_ (by decide +kernel) (by decide +kernel)
  simp only [List.forall_mem_cons, List.not_mem_nil, false_implies, implies_true, and_true]
  exact ⟨by norm_num, by norm_num, by norm_num, by norm_num, by norm_num, by norm_num⟩

theorem prime_622491383 : Nat.Prime 622491383 := by
  refine prime_of_certificate 622491383 5 30 [(2, 1), (311245691, 1)] (by decide) (by decide)
    (by decide +kernel) ?_ (by decide +kernel) (by decide +kernel)
  simp only [List.forall_mem_cons, List.not_mem_nil, false_implies, implies_true, and_true]
  exact ⟨by norm_num, prime_311245691⟩

theorem prime_34282281433 : Nat.Prime 34282281433 := by
  refine prime_of_certificate 34282281433 17 35 [(2, 3), (3, 1), (7, 1), (204061199, 1)] (by decide) (by decide)
    (by decide +kernel) ?_ (by decide +kernel) (by decide +kernel)
  simp only [List.forall_mem_cons, List.not_mem_nil, false_implies, implies_true, and_true]
  exact ⟨by norm_num, by norm_num, by norm_num, prime_204061199⟩

theorem prime_66417393611 : Nat.Prime 66417393611 := by
  refine prime_of_certificate 66417393611 6 36 [(2, 1), (5, 1), (53, 1), (173, 1), (197, 1), (3677, 1)] (by decide) (by decide)
    (by decide +kernel) ?_ (by decide +kernel) (by decide +kernel)
  simp only [List.forall_mem_cons, List.not_mem_nil, false_implies, implies_true, and_true]
  exact ⟨by norm_num, by norm_num, by norm_num, by norm_num, by norm_num, by norm_num⟩

theorem prime_1002328039319 : Nat.Prime 1002328039319 := by
  refine prime_of_certificate 1002328039319 19 40 [(2, 1), (126241, 1), (3969899, 1)] (by decide) (by decide)
    (by decide +kernel) ?_ (by decide +kernel) (by decide +kernel)
  simp only [List.forall_mem_cons, List.not_mem_nil, false_implies, implies_true, and_true]
  exact ⟨by norm_num, by norm_num, prime_3969899⟩

theorem prime_11290956913871 : Nat.Prime 11290956913871 := by
  refine prime_of_certificate 11290956913871 13 44 [(2, 1), (5, 1), (17, 1), (66417393611, 1)] (by decide) (by decide)
    (by decide +kernel) ?_ (by decide +kernel) (by decide +kernel)
  simp only [List.forall_mem_cons, List.not_mem_nil, false_implies, implies_true, and_true]
  exact ⟨by norm_num, by norm_num, by norm_num, prime_66417393611⟩

theorem prime_46076956964474543 : Nat.Prime 46076956964474543 := by
  refine prime_of_certificate 46076956964474543 5 56 [(2, 1), (23, 1), (18169, 1), (78283, 1), (704251, 1)] (by decide) (by decide)
    (by decide +kernel) ?_ (by decide +kernel) (by decide +kernel)
  simp only [List.forall_mem_cons, List.not_mem_nil, false_implies, implies_true, and_true]
  exact ⟨by norm_num, by norm_num, by norm_num, by norm_num, by norm_num⟩

theorem prime_208150935158385979 : Nat.Prime 208150935158385979 := by
  refine prime_of_certificate 208150935158385979 2 58 [(2, 1), (3, 1), (11, 1), (43, 1), (127, 1), (3023, 1), (191039911, 1)] (by decide) (by decide)
    (by decide +kernel) ?_ (by decide +kernel) (by decide +kernel)
  simp only [List.forall_mem_cons, List.not_mem_nil, false_implies, implies_true, and_true]
  exact ⟨by norm_num, by norm_num, by norm_num, by norm_num, by norm_num, by norm_num, prime_191039911⟩

theorem prime_2624747550333869278416773953 : Nat.Prime 2624747550333869278416773953 := by
  refine prime_of_certificate 2624747550333869278416773953 7 92 [(2, 6), (3, 2), (1297, 1), (16879, 1), (208150935158385979, 1)] (by decide) (by decide)
    (by decide +kernel) ?_ (by decide +kernel) (by decide +kernel)
  simp only [List.forall_mem_cons, List.not_mem_nil, false_implies, implies_true, and_true]
  exact ⟨by norm_num, by norm_num, by norm_num, by norm_num, prime_208150935158385979⟩

theorem prime_774023187263532362759620327192479577272145303 : Nat.Prime 774023187263532362759620327192479577272145303 := by
  refine prime_of_certificate 774023187263532362759620327192479577272145303 3 150 [(2, 1), (3, 2), (2411, 1), (34282281433, 1), (11290956913871, 1), (46076956964474543, 1)] (by decide) (by decide)
    (by decide +kernel) ?_ (by decide +kernel) (by decide +kernel)
  simp only [List.forall_mem_cons, List.not_mem_nil, false_implies, implies_true, and_true]
  exact ⟨by norm_num, by norm_num, by norm_num, prime_34282281433, prime_11290956913871, prime_46076956964474543⟩

theorem prime_835945042244614951780389953367877943453916927241 : Nat.Prime 835945042244614951780389953367877943453916927241 := by
  refine prime_of_certificate 835945042244614951780389953367877943453916927241 11 160 [(2, 3), (3, 3), (5, 1), (774023187263532362759620327192479577272145303, 1)] (by decide) (by decide)
    (by decide +kernel) ?_ (by decide +kernel) (by decide +kernel)
  simp only [List.forall_mem_cons, List.not_mem_nil, false_implies, implies_true, and_true]
  exact ⟨by norm_num, by norm_num, by norm_num, prime_774023187263532362759620327192479577272145303⟩

theorem n_prime : Nat.Prime Config.n := by
  refine prime_of_certificate Config.n 7 256 [(2, 4), (3, 1), (71, 1), (131, 1), (373, 1), (3407, 1), (17449, 1), (38189, 1), (187019741, 1), (622491383, 1), (1002328039319, 1), (2624747550333869278416773953, 1)] (by decide) (by decide)
    (by decide +kernel) ?_ (by decide +kernel) (by decide +kernel)
  simp only [List.forall_mem_cons, List.not_mem_nil, false_implies, implies_true, and_true]
  exact ⟨by norm_num, by norm_num, by norm_num, by norm_num, by norm_num, by norm_num, by norm_num, by norm_num, prime_187019741, prime_622491383, prime_1002328039319, prime_2624747550333869278416773953⟩

theorem p_prime : Nat.Prime Config.p := by
  refine prime_of_certificate Config.p 6 256 [(2, 1), (3, 1), (5, 2), (17, 1), (257, 1), (641, 1), (1531, 1), (65537, 1), (490463, 1), (6700417, 1), (835945042244614951780389953367877943453916927241, 1)] (by decide) (by decide)
    (by decide +kernel) ?_ (by decide +kernel) (by decide +kernel)
  simp only [List.forall_mem_cons, List.not_mem_nil, false_implies, implies_true, and_true]
  exact ⟨by norm_num, by norm_num, by norm_num, by norm_num, by norm_num, by norm_num, by norm_num, by norm_num, by norm_num, prime_6700417, prime_835945042244614951780389953367877943453916927241⟩

end Sys2Proof.Machine
end

