-- ==== Sys2Proof/Laws/Curve.lean ====
section
/-! SUPPORT. The field operations of the curve in `ZMod p`, the range of every curve operation, and the cubic of the
curve equation: it has no root modulo p. -/

namespace Sys2Proof.Machine

theorem fadd_lt (a b : Nat) : fadd a b < Config.p := addMod_lt p_pos a b
theorem fsub_lt (a b : Nat) : fsub a b < Config.p := subMod_lt p_pos a b
theorem fmul_lt (a b : Nat) : fmul a b < Config.p := mulMod_lt p_pos a b
theorem fsqr_lt (a : Nat) : fsqr a < Config.p := sqrMod_lt p_pos a

theorem cast_fadd (a b : Nat) : ((fadd a b : ℕ) : ZMod Config.p) = a + b := by simp [fadd, addMod]

theorem cast_fmul (a b : Nat) : ((fmul a b : ℕ) : ZMod Config.p) = a * b := by simp [fmul, mulMod]

theorem cast_fsqr (a : Nat) : ((fsqr a : ℕ) : ZMod Config.p) = a ^ 2 := by simp [fsqr, sqrMod, pow_two]

theorem cast_fsub (a : Nat) {b : Nat} (hb : b < Config.p) : ((fsub a b : ℕ) : ZMod Config.p) = a - b := by
  simp only [fsub, subMod, ZMod.natCast_mod]
  rw [Nat.cast_sub (by omega)]
  simp

/-- Two FieldElements with the same class modulo p are equal. -/
theorem eq_of_cast_eq {a b : Nat} (ha : a < Config.p) (hb : b < Config.p)
    (h : (a : ZMod Config.p) = (b : ZMod Config.p)) : a = b := by
  rw [ZMod.natCast_eq_natCast_iff] at h
  rw [← Nat.mod_eq_of_lt ha, ← Nat.mod_eq_of_lt hb]
  exact h

theorem cast_eq_zero {a : Nat} (ha : a < Config.p) : (a : ZMod Config.p) = 0 ↔ a = 0 :=
  ⟨fun h => eq_of_cast_eq ha p_pos (by simpa using h), fun h => by simp [h]⟩

/-- The right-hand side of the curve equation in `ZMod p` (R181). -/
theorem cast_curveRhs (x : Nat) :
    ((curveRhs x : ℕ) : ZMod Config.p) = (x : ZMod Config.p) ^ 3 - 3 * x + (Config.b : ℕ) := by
  simp only [curveRhs, cast_fadd, cast_fsub _ (fmul_lt _ _), cast_fmul, cast_fsqr]
  push_cast
  ring

theorem inRange_dbl (t : Triple) : inRange (dbl t) = true := by
  unfold dbl
  split
  · decide
  · exact (inRange_iff _).2 ⟨fsub_lt _ _, fsub_lt _ _, fmul_lt _ _⟩

theorem inRange_add {t u : Triple} (ht : inRange t = true) (hu : inRange u = true) : inRange (add t u) = true := by
  unfold add
  split
  · decide
  split
  · exact hu
  split
  · exact ht
  dsimp only
  split
  · exact inRange_dbl t
  split
  · decide
  · exact (inRange_iff _).2 ⟨fsub_lt _ _, fsub_lt _ _, fmul_lt _ _⟩

theorem inRange_scalarMulFrom (k : Nat) {t : Triple} (ht : inRange t = true) :
    ∀ (i : Nat) (acc : Triple), inRange acc = true → inRange (scalarMulFrom k t i acc) = true
  | 0, _, h => h
  | i + 1, acc, _ => by
    unfold scalarMulFrom
    apply inRange_scalarMulFrom k ht i
    split
    · exact inRange_add (inRange_dbl acc) ht
    · exact inRange_dbl acc

theorem inRange_scalarMul (k : Nat) {t : Triple} (ht : inRange t = true) : inRange (scalarMul k t) = true :=
  inRange_scalarMulFrom k ht 256 _ (by decide)

theorem inRange_g : inRange Config.g = true := by decide

/-- A quadratic c0 + c1 x + c2 x^2, standing for a polynomial modulo the cubic x^3 - 3 x + b. -/
structure Quad where
  c0 : Nat
  c1 : Nat
  c2 : Nat
deriving DecidableEq, Repr

/-- The product modulo the cubic. -/
def Quad.mul (u v : Quad) : Quad :=
  let k0 := u.c0 * v.c0
  let k1 := u.c0 * v.c1 + u.c1 * v.c0
  let k2 := u.c0 * v.c2 + u.c1 * v.c1 + u.c2 * v.c0
  let k3 := u.c1 * v.c2 + u.c2 * v.c1
  let k4 := u.c2 * v.c2
  let nb := Config.p - Config.b
  ⟨(k0 + nb * k3) % Config.p, (k1 + 3 * k3 + nb * k4) % Config.p, (k2 + 3 * k4) % Config.p⟩

/-- u^e modulo the cubic, for e below 2^k. -/
def Quad.pow : Nat → Quad → Nat → Quad
  | 0, _, _ => ⟨1, 0, 0⟩
  | k + 1, u, e =>
    let r := Quad.pow k (u.mul u) (e / 2)
    if e % 2 = 1 then u.mul r else r

/-- The value at x. -/
def Quad.eval (u : Quad) (x : ZMod Config.p) : ZMod Config.p := u.c0 + u.c1 * x + u.c2 * x ^ 2

theorem Quad.eval_mul (u v : Quad) {x : ZMod Config.p} (hx : x ^ 3 = 3 * x - (Config.b : ℕ)) :
    (u.mul v).eval x = u.eval x * v.eval x := by
  have hnb : ((Config.p - Config.b : ℕ) : ZMod Config.p) = -(Config.b : ℕ) := by
    rw [Nat.cast_sub (by decide), ZMod.natCast_self, zero_sub]
  have h4 : x ^ 4 = 3 * x ^ 2 - (Config.b : ℕ) * x := by rw [pow_succ, hx]; ring
  simp only [Quad.eval, Quad.mul, ZMod.natCast_mod]
  push_cast
  rw [hnb]
  linear_combination (-(u.c1 * v.c2 + u.c2 * v.c1 : ZMod Config.p)) * hx - (u.c2 * v.c2 : ZMod Config.p) * h4

theorem Quad.eval_pow {x : ZMod Config.p} (hx : x ^ 3 = 3 * x - (Config.b : ℕ)) :
    ∀ (k : Nat) (u : Quad) (e : Nat), e < 2 ^ k → (Quad.pow k u e).eval x = u.eval x ^ e
  | 0, u, e, he => by
    have : e = 0 := by simpa using he
    simp [Quad.pow, Quad.eval, this]
  | k + 1, u, e, he => by
    have ih := Quad.eval_pow hx k (u.mul u) (e / 2) (by omega)
    rw [Quad.eval_mul u u hx, ← pow_two, ← pow_mul] at ih
    unfold Quad.pow
    dsimp only
    split
    · rw [Quad.eval_mul u _ hx, ih, ← pow_succ', show 2 * (e / 2) + 1 = e by omega]
    · rw [ih, show 2 * (e / 2) = e by omega]

/-- u - x. -/
def Quad.subX (u : Quad) : Quad := ⟨u.c0, u.c1 + (Config.p - 1), u.c2⟩

/-- The inverse of x^p - x modulo the cubic. -/
def Quad.witness : Quad :=
  ⟨0xa969487079f1744798bf0de6fded091b66e9d328eb0645fe5d979d1339b7f47f,
   0xa4a08891884100c13323460107a8d28eede4387fa3e6e9bfebec9f6d72d0b5cc,
   0x4cde11cf86cb876cd59cf0115813c55af0ecd3cda667d98bb9a347a56aa74a6d⟩

theorem Quad.witness_mul : Quad.witness.mul (Quad.pow 256 ⟨0, 1, 0⟩ Config.p).subX = ⟨1, 0, 0⟩ := by decide +kernel

/-- x^3 - 3 x + b has no root modulo p: no point of the curve has y = 0 (R181's remark on w = 0). -/
theorem cubic_ne_zero [Fact (Nat.Prime Config.p)] (x : ZMod Config.p) : x ^ 3 - 3 * x + (Config.b : ℕ) ≠ 0 := by
  intro h
  have hx : x ^ 3 = 3 * x - (Config.b : ℕ) := by linear_combination h
  have hpow := Quad.eval_pow hx 256 ⟨0, 1, 0⟩ Config.p p_lt_two_pow
  rw [show Quad.eval ⟨0, 1, 0⟩ x = x by simp [Quad.eval], ZMod.pow_card] at hpow
  have hsub : (Quad.pow 256 ⟨0, 1, 0⟩ Config.p).subX.eval x = 0 := by
    generalize Quad.pow 256 ⟨0, 1, 0⟩ Config.p = q at *
    have hp : ((Config.p - 1 : ℕ) : ZMod Config.p) = -1 := by
      rw [Nat.cast_sub (by decide), ZMod.natCast_self]
      simp
    simp only [Quad.eval, Quad.subX] at hpow ⊢
    push_cast
    rw [hp]
    linear_combination hpow
  have hone := congrArg (fun q => Quad.eval q x) Quad.witness_mul
  change Quad.eval (Quad.witness.mul _) x = _ at hone
  rw [Quad.eval_mul _ _ hx, hsub] at hone
  simp [Quad.eval] at hone

end Sys2Proof.Machine
end

