-- ==== Sys2Proof/Laws/Exec.lean ====
section
/-! SUPPORT. Once, everything a command and a turn of the core can answer. Invariants and frames cite these lemmas and
do not unfold the meanings. -/

namespace Sys2Proof.Machine

/-- The two ways a turn ends the command: `t` is a completed state, with a failing outcome or with outcome OK; only
registers, `PKTAG`, the flags and the completion fields differ from s. -/
inductive Ends (s : State) : State → Prop where
  | failed (f : Failure) : f ≠ .illegalCommand → Ends s (s.raise f)
  | done (u : State) (f : Flags) : u = { s with regs := u.regs, pktag := u.pktag } → Ends s (u.complete f)

theorem residue2_ends (m : Nat) (f : Nat → Nat → Nat) (rd ra rb : Index) (s : State) :
    ∃ t, residue2 m f rd ra rb s = .next t ∧ Ends s t := by
  rcases residue2_cases m f rd ra rb s with ⟨-, h⟩ | ⟨-, -, h⟩
  · exact ⟨_, h, .failed _ (by simp)⟩
  · exact ⟨_, h, .done _ _ rfl⟩

theorem residue1_ends (m : Nat) (f : Nat → Nat) (rd ra : Index) (s : State) :
    ∃ t, residue1 m f rd ra s = .next t ∧ Ends s t := by
  rcases residue1_cases m f rd ra s with ⟨-, h⟩ | ⟨-, h⟩
  · exact ⟨_, h, .failed _ (by simp)⟩
  · exact ⟨_, h, .done _ _ rfl⟩

theorem point1_ends (f : Triple → Triple) (rd ra : Index) (s : State) :
    ∃ t, point1 f rd ra s = .next t ∧ Ends s t := by
  rcases point1_cases f rd ra s with ⟨-, h⟩ | ⟨-, h⟩
  · exact ⟨_, h, .failed _ (by simp)⟩
  · exact ⟨_, h, .done _ _ rfl⟩

/-- The sampler ends the command, or waits for a draw the limit allows, if every attempt that answers ends it. -/
theorem nextScalar_ends (limit : Config.DrawLimit) (attempt : Value → Option State) (s : State)
    (ha : ∀ v t, attempt v = some t → Ends s t) :
    Ends s (s.nextScalar limit attempt) ∨
    (limitReached limit s.held.draws = false ∧ s.nextScalar limit attempt = s.requestDraw) := by
  rcases nextScalar_cases limit attempt s with h | h | ⟨v, t, -, -, hv, h⟩
  · exact .inl (h ▸ .failed _ (by simp))
  · exact .inr h
  · exact .inl (h ▸ ha v t hv)

/-- A command's turn answers a next state: the command ends, or it is one of the three that draw and waits. -/
theorem exec_cases (i : Instr) (s : State) :
    (∃ t, exec i s = .next t ∧ Ends s t) ∨
    (drawingCommand i = true ∧ limitReached Config.drawLimit s.held.draws = false ∧ exec i s = .next s.requestDraw) := by
  have draw : ∀ (drw : Bool) (attempt : Value → Option State), drw = true → (∀ v t, attempt v = some t → Ends s t) →
      (∃ t, (.next (s.nextScalar Config.drawLimit attempt) : Result) = .next t ∧ Ends s t) ∨
      (drw = true ∧ limitReached Config.drawLimit s.held.draws = false ∧
        (.next (s.nextScalar Config.drawLimit attempt) : Result) = .next s.requestDraw) := by
    intro drw attempt hd ha
    rcases nextScalar_ends Config.drawLimit attempt s ha with h | ⟨h0, h⟩
    · exact .inl ⟨_, rfl, h⟩
    · exact .inr ⟨hd, h0, by rw [h]⟩
  cases i with
  | nop => exact .inl ⟨_, rfl, .done _ _ rfl⟩
  | fadd rd ra rb => exact .inl (residue2_ends ..)
  | fsub rd ra rb => exact .inl (residue2_ends ..)
  | fmul rd ra rb => exact .inl (residue2_ends ..)
  | fsqr rd ra => exact .inl (residue1_ends ..)
  | finv rd ra => exact .inl (residue1_ends ..)
  | nadd rd ra rb => exact .inl (residue2_ends ..)
  | nsub rd ra rb => exact .inl (residue2_ends ..)
  | nmul rd ra rb => exact .inl (residue2_ends ..)
  | nsqr rd ra => exact .inl (residue1_ends ..)
  | ninv rd ra => exact .inl (residue1_ends ..)
  | nred rd ra => exact .inl ⟨_, rfl, .done _ _ rfl⟩
  | pdbl rd ra => exact .inl (point1_ends ..)
  | paff rd ra => exact .inl (point1_ends ..)
  | padd rd ra rb =>
    simp only [exec, execPadd]
    split
    · exact .inl ⟨_, rfl, .done _ _ rfl⟩
    · exact .inl ⟨_, rfl, .failed _ (by simp)⟩
  | pmul rd ra rb =>
    simp only [exec, execPmul]
    repeat' split
    all_goals first | exact .inl ⟨_, rfl, .failed _ (by simp)⟩ | exact .inl ⟨_, rfl, .done _ _ rfl⟩
  | pchk ra =>
    simp only [exec, execPchk]
    split
    · exact .inl ⟨_, rfl, .done _ _ rfl⟩
    · exact .inl ⟨_, rfl, .failed _ (by simp)⟩
  | pdec rd ra =>
    simp only [exec, execPdec]
    split
    · exact .inl ⟨_, rfl, .failed _ (by simp)⟩
    · exact .inl ⟨_, rfl, .done _ _ rfl⟩
  | penc rd ra =>
    simp only [exec, execPenc]
    repeat' split
    all_goals first | exact .inl ⟨_, rfl, .failed _ (by simp)⟩ | exact .inl ⟨_, rfl, .done _ _ rfl⟩
  | verify ra rb rc =>
    simp only [exec, execVerify]
    repeat' split
    all_goals first | exact .inl ⟨_, rfl, .failed _ (by simp)⟩ | exact .inl ⟨_, rfl, .done _ _ rfl⟩
  | nrand rd =>
    refine draw true _ rfl fun v t ht => ?_
    simp only [Option.some.injEq] at ht
    exact ht ▸ .done _ _ rfl
  | keygen rd =>
    refine draw true _ rfl fun v t ht => ?_
    simp only [Option.some.injEq] at ht
    exact ht ▸ .done _ _ rfl
  | sign rd ra rb =>
    simp only [exec, execSign, signUnder]
    split
    · exact .inl ⟨_, rfl, .failed _ (by simp)⟩
    refine draw true _ rfl fun v t ht => ?_
    split at ht
    · cases ht
    · simp only [Option.some.injEq] at ht
      exact ht ▸ .done _ _ rfl

/-- A turn of the core: nothing outside RUN; in RUN an illegal word fails, a command does what its meaning says. -/
theorem coreTurn_cases (s : State) :
    (s.phase ≠ .run ∧ coreTurn s = .next s) ∨
    (s.phase = .run ∧ (∃ e, decode s.cmd = .error e) ∧ coreTurn s = .next (s.raise .illegalCommand)) ∨
    (s.phase = .run ∧ ∃ i, decode s.cmd = .ok i ∧ coreTurn s = exec i s) := by
  unfold coreTurn
  cases hp : s.phase
  · exact .inl ⟨by simp, rfl⟩
  · cases hd : decode s.cmd with
    | ok i => exact .inr (.inr ⟨rfl, i, rfl, rfl⟩)
    | error e => exact .inr (.inl ⟨rfl, ⟨e, rfl⟩, rfl⟩)
  · exact .inl ⟨by simp, rfl⟩

theorem phase_run_iff (s : State) : s.phase = .run ↔ s.busy = true ∧ s.rngwait = false := by
  unfold State.phase
  cases s.busy <;> cases s.rngwait <;> simp

theorem phase_idle_iff (s : State) : s.phase = .idle ↔ s.busy = false := by
  unfold State.phase
  cases s.busy <;> cases s.rngwait <;> simp

theorem phase_wait_iff (s : State) : s.phase = .wait ↔ s.busy = true ∧ s.rngwait = true := by
  unfold State.phase
  cases s.busy <;> cases s.rngwait <;> simp

end Sys2Proof.Machine
end

