-- ==== Sys2Proof/Laws/PerInstr.lean ====
section
/-! SUPPORT. Per-command facts about the encoding: the fields of a format `C` word, and for each command where its
opcode and its zero byte stand. -/

namespace Sys2Proof

/-- Each field of a format `C` word reads back as it was put in (R90). -/
theorem fields_of_word (op : BitVec 8) (rd ra rb rc : Index) :
    opField (wordOf op rd ra rb rc) = op ∧ rdField (wordOf op rd ra rb rc) = rd ∧
    raField (wordOf op rd ra rb rc) = ra ∧ rbField (wordOf op rd ra rb rc) = rb ∧
    rcField (wordOf op rd ra rb rc) = rc ∧ zeroField (wordOf op rd ra rb rc) = 0#8 := by
  refine ⟨?_, ?_, ?_, ?_, ?_, ?_⟩ <;>
  · apply BitVec.eq_of_getLsbD_eq
    intro k hk
    simp only [opField, rdField, raField, rbField, rcField, zeroField, wordOf, BitVec.getLsbD_extractLsb',
      BitVec.getLsbD_append, hk, decide_true, Bool.true_and]
    interval_cases k <;> simp

end Sys2Proof

namespace Sys2Proof.Laws.EncodedFields

/-- The word of a command carries the opcode of its row in bits 31:24 and 0 in bits 7:0 (spec/30_encoding.md R90, R93). -/
def Statement (i : Instr) : Prop :=
  opField (encode i) = opField (rowMatch i) ∧ zeroField (encode i) = 0#8

theorem of_word (i : Instr) (op : BitVec 8) (rd ra rb rc : Index) (he : encode i = wordOf op rd ra rb rc)
    (ho : opField (rowMatch i) = op) : Statement i := by
  obtain ⟨h1, -, -, -, -, h6⟩ := fields_of_word op rd ra rb rc
  exact ⟨by rw [he, h1, ho], by rw [he, h6]⟩

theorem nop : Statement .nop := of_word _ _ _ _ _ _ rfl (by simp [opField, rowMatch])
theorem fadd (rd ra rb : Index) : Statement (.fadd rd ra rb) := of_word _ _ _ _ _ _ rfl (by simp [opField, rowMatch])
theorem fsub (rd ra rb : Index) : Statement (.fsub rd ra rb) := of_word _ _ _ _ _ _ rfl (by simp [opField, rowMatch])
theorem fmul (rd ra rb : Index) : Statement (.fmul rd ra rb) := of_word _ _ _ _ _ _ rfl (by simp [opField, rowMatch])
theorem fsqr (rd ra : Index) : Statement (.fsqr rd ra) := of_word _ _ _ _ _ _ rfl (by simp [opField, rowMatch])
theorem finv (rd ra : Index) : Statement (.finv rd ra) := of_word _ _ _ _ _ _ rfl (by simp [opField, rowMatch])
theorem nadd (rd ra rb : Index) : Statement (.nadd rd ra rb) := of_word _ _ _ _ _ _ rfl (by simp [opField, rowMatch])
theorem nsub (rd ra rb : Index) : Statement (.nsub rd ra rb) := of_word _ _ _ _ _ _ rfl (by simp [opField, rowMatch])
theorem nmul (rd ra rb : Index) : Statement (.nmul rd ra rb) := of_word _ _ _ _ _ _ rfl (by simp [opField, rowMatch])
theorem nsqr (rd ra : Index) : Statement (.nsqr rd ra) := of_word _ _ _ _ _ _ rfl (by simp [opField, rowMatch])
theorem ninv (rd ra : Index) : Statement (.ninv rd ra) := of_word _ _ _ _ _ _ rfl (by simp [opField, rowMatch])
theorem nred (rd ra : Index) : Statement (.nred rd ra) := of_word _ _ _ _ _ _ rfl (by simp [opField, rowMatch])
theorem nrand (rd : Index) : Statement (.nrand rd) := of_word _ _ _ _ _ _ rfl (by simp [opField, rowMatch])
theorem pdbl (rd ra : Index) : Statement (.pdbl rd ra) := of_word _ _ _ _ _ _ rfl (by simp [opField, rowMatch])
theorem padd (rd ra rb : Index) : Statement (.padd rd ra rb) := of_word _ _ _ _ _ _ rfl (by simp [opField, rowMatch])
theorem pmul (rd ra rb : Index) : Statement (.pmul rd ra rb) := of_word _ _ _ _ _ _ rfl (by simp [opField, rowMatch])
theorem pchk (ra : Index) : Statement (.pchk ra) := of_word _ _ _ _ _ _ rfl (by simp [opField, rowMatch])
theorem paff (rd ra : Index) : Statement (.paff rd ra) := of_word _ _ _ _ _ _ rfl (by simp [opField, rowMatch])
theorem pdec (rd ra : Index) : Statement (.pdec rd ra) := of_word _ _ _ _ _ _ rfl (by simp [opField, rowMatch])
theorem penc (rd ra : Index) : Statement (.penc rd ra) := of_word _ _ _ _ _ _ rfl (by simp [opField, rowMatch])
theorem keygen (rd : Index) : Statement (.keygen rd) := of_word _ _ _ _ _ _ rfl (by simp [opField, rowMatch])
theorem sign (rd ra rb : Index) : Statement (.sign rd ra rb) := of_word _ _ _ _ _ _ rfl (by simp [opField, rowMatch])
theorem verify (ra rb rc : Index) : Statement (.verify ra rb rc) := of_word _ _ _ _ _ _ rfl (by simp [opField, rowMatch])

end Sys2Proof.Laws.EncodedFields
end

