-- ==== Sys2Proof/Laws/Ports.lean ====
section
/-! SUPPORT. The address map and the words of a register, once. -/

namespace Sys2Proof.Machine

/-- Nothing is addressed but by an aligned access of size 4 (R62, R63). -/
theorem target_some {a : Offset} {size : Nat} {m : Mapped} (h : target a size = some m) :
    size = 4 ∧ a.toNat % 4 = 0 ∧ mapped a = some m := by
  unfold target at h
  split at h
  · rename_i hs; exact ⟨hs.1, hs.2, h⟩
  · cases h

/-- A read is answered ERROR with no effect, or OKAY with the data and effect of what is mapped. -/
theorem memRead_cases (s : State) (a : Offset) (size : Nat) :
    (target a size = none ∧ memRead s a size = s.respond (.read .error 0#32)) ∨
    (∃ m, target a size = some m ∧ memRead s a size = (readEffect s m).respond (.read .okay (readData s m))) := by
  unfold memRead
  cases h : target a size <;> simp

/-- A write is answered ERROR with no effect, or OKAY with the effect of what is mapped. -/
theorem memWrite_cases (s : State) (a : Offset) (size : Nat) (v : Word) :
    (target a size = none ∧ memWrite s a size v = s.respond (.write .error)) ∨
    (∃ m, target a size = some m ∧ memWrite s a size v = (writeEffect s v m).respond (.write .okay)) := by
  unfold memWrite
  cases h : target a size <;> simp

/-- A read changes FSTICKY at most. -/
theorem readEffect_cases (s : State) (m : Mapped) : readEffect s m = s ∨ (s.busy = true ∧ readEffect s m = s.violation) := by
  cases m <;> cases h : s.busy <;> simp [readEffect, h]

/-- The word of register i, word j (R66). -/
theorem mapped_operand (i : Index) (j : Fin 8) :
    target (BitVec.ofNat 10 (0x200 + 32 * i.toNat + 4 * j.val)) 4 = some (.operand i j) := by
  revert i j; decide +kernel

/-- The offsets whose write starts a command, resets the core, or clears sticky bits (R30). -/
theorem mapped_cmd : ∀ a, mapped a = some .cmd → a = 0x004#10 := by decide +kernel
theorem mapped_ctrl : ∀ a, mapped a = some .ctrl → a = 0x010#10 := by decide +kernel
theorem mapped_fsticky : ∀ a, mapped a = some .fsticky → a = 0x014#10 := by decide +kernel

theorem valueWord_setValueWord (v : Value) (j : Fin 8) (w : Word) : valueWord (setValueWord v j w) j = w := by
  apply BitVec.eq_of_getLsbD_eq
  intro k hk
  have := j.isLt
  simp only [valueWord, setValueWord, BitVec.getLsbD_extractLsb', BitVec.getLsbD_or, BitVec.getLsbD_and,
    BitVec.getLsbD_not, BitVec.getLsbD_shiftLeft, BitVec.getLsbD_setWidth, BitVec.getLsbD_allOnes, hk]
  simp
  have h1 : 224 - 32 * j.val + k < 256 := by omega
  have h2 : k < 256 := by omega
  simp [h1, h2]
  omega

theorem valueWord_setValueWord_other (v : Value) {j j' : Fin 8} (w : Word) (h : j ≠ j') :
    valueWord (setValueWord v j w) j' = valueWord v j' := by
  apply BitVec.eq_of_getLsbD_eq
  intro k hk
  have hj := j.isLt
  have hj' := j'.isLt
  have hne : j.val ≠ j'.val := fun e => h (Fin.ext e)
  simp only [valueWord, setValueWord, BitVec.getLsbD_extractLsb', BitVec.getLsbD_or, BitVec.getLsbD_and,
    BitVec.getLsbD_not, BitVec.getLsbD_shiftLeft, BitVec.getLsbD_setWidth, BitVec.getLsbD_allOnes, hk]
  have h1 : 224 - 32 * j'.val + k < 256 := by omega
  by_cases hlt : 224 - 32 * j'.val + k < 224 - 32 * j.val
  · simp [hlt, h1]
  · have hge : ¬ (224 - 32 * j'.val + k - (224 - 32 * j.val) < 32) := by omega
    have hw : w.getLsbD (224 - 32 * j'.val + k - (224 - 32 * j.val)) = false :=
      BitVec.getLsbD_of_ge _ _ (by omega)
    simp [hlt, h1, hge, hw]

end Sys2Proof.Machine
end

