-- ==== Sys2Proof/Tests/Slice0.lean ====
section
/-! SUPPORT. Tests. Expected values are those of spec/95_test_vectors.md, cited by their ids (V.., X..), or of the
encodings of spec/30_encoding.md. The last part shows, for each statement with hypotheses, a concrete case meeting them. -/

namespace Sys2Proof.Tests

set_option Elab.async false

open Sys2Proof.Machine

/-! ### Helpers -/

/-- Registers that hold these values, the others 0. -/
def regsOf (l : List (Nat × Nat)) : Vector Value 16 :=
  l.foldl (fun r kv => r.setIfInBounds kv.1 (BitVec.ofNat 256 kv.2)) (Vector.replicate 16 0)

/-- The hidden state of a command that runs on these sources, with this answered draw. -/
def holding (l : List (Nat × Nat)) (tag : Nat) (d : Option Draw) : Hidden :=
  ⟨regsOf l, BitVec.ofNat 8 tag, if d = none then 0 else 1, d⟩

/-- A core that runs the command word w on these registers. -/
def running (w : Nat) (l : List (Nat × Nat)) (tag : Nat := 0) (d : Option Draw := none) : State :=
  { State.reset with
    regs := regsOf l, pktag := BitVec.ofNat 8 tag, cmd := BitVec.ofNat 32 w, busy := true,
    hidden := some (holding l tag d) }

/-- An answered draw. -/
def drew (v : Nat) : Option Draw := some (.value (BitVec.ofNat 256 v))

/-- Registers k, k + 1, k + 2, then PKTAG, FLAGS and STATUS after one step. -/
def shows (k : Nat) (s : State) : Option (List Nat × Nat × Nat × Nat) :=
  match step s with
  | .next t =>
    some ([k, k + 1, k + 2].map fun j => (t.regs[j]?.getD 0).toNat, t.pktag.toNat, (flagsWord t.flags).toNat,
      (statusWord t).toNat)
  | .fault _ => none
  | .refused _ => none

/-- The state after k steps. -/
def after : Nat → State → Option State
  | 0, s => some s
  | k + 1, s =>
    match step s with
    | .next t => after k t
    | .fault _ => none
    | .refused _ => none

/-- Is the outcome the next state t. -/
def isNext (o : Result) (t : State) : Bool :=
  match o with
  | .next s => s == t
  | .fault _ => false
  | .refused _ => false

theorem eq_of_isNext {o : Result} {t : State} (h : isNext o t = true) : o = .next t := by
  cases o <;> simp_all [isNext]

/-- What the port answers to a transaction in state s. -/
def answers (s : State) (t : Transaction) : Option PortAnswer := (serve s t).portAnswer

def valA : Nat := 0x1234567890abcdef1234567890abcdef1234567890abcdef1234567890abcdef
def valC : Nat := 0xfedcba0987654321fedcba0987654321fedcba0987654321fedcba0987654321
def qx : Nat := 0x748112c6fe7b352b32d2d6cdeb22dc8bab3b8de5e6e4f1cf0802b286dfc34162
def qy : Nat := 0x6d138c838cff23f94255e4d96b91c694f3c967172069108ed5da406a0eb54aec
def digest : Nat := 0x70009000b000000000000000000000000000000000000000000
def sigR : Nat := 0x3381481fc0868eaba12aeb0ab91a3ae63a650f39c89b5fb29dc3a5ee93f168d0
def sigS : Nat := 0xbfab68b893264e41362eb12e863c357d4dbe882d4582e8563c56cd94ee900e4

/-- The registers of a point at index k. -/
def at3 (k : Nat) (t : Nat × Nat × Nat) : List (Nat × Nat) := [(k, t.1), (k + 1, t.2.1), (k + 2, t.2.2)]

def g2 : Nat × Nat × Nat :=
  (0x9a978f59acd1b5ad570e7d52dcfcde43804b42274f61ddcf1e7d848391d6c70f,
   0x4126885e7f786af905338238e5346d5fe77fc46388668bd0fd59be3190d2f5d1,
   0x9fc685c5fc34ff371dcfd694f81f3c2c579c66aed662bd9d976c80d06f7ea3ea)
def g3 : Nat × Nat × Nat :=
  (0xec88440c8b00a9e572bf1bceb7d0c5906bd65990a9b7081130bd72e2c136ca0,
   0xc0bc77e1339e899101f8e8eccf79c3f7f4bbdd1bf96f6446199bd423026a60d6,
   0xdd27cb52a31d1f6e041accf1103de05ba0a5edd74b738d51fe3397de0e3fc306)
def g3b : Nat × Nat × Nat :=
  (0xec88440c8b00a9e572bf1bceb7d0c5906bd65990a9b7081130bd72e2c136ca0,
   0x3f43881dcc61766ffe07171330863c080b4422e506909bb9e6642bdcfd959f29,
   0x22d834ac5ce2e092fbe5330eefc21fa45f5a1229b48c72ae01cc6821f1c03cf9)
def gs : Nat × Nat × Nat :=
  (0xac5f47cc84b1091ee2f39b958e9103c9dc0df603b7acce83d284e51762630a59,
   0x7f1a1719f0d3fcda773f5a53e07cf0b15e719ab9598af6765db20341bdfa8faa,
   2)
def dblGs : Nat × Nat × Nat :=
  (0x978f5a46d1b5acbd0e7d52dcfcde43804b4226b561ddcf1e7d848391d6c70f9a,
   0x6885ec0986af8c4138238e5346d5fe77fc46347468bd0fd59be3190d2f5d1412,
   0xfc685c68c34ff368dcfd694f81f3c2c579c66ae4662bd9d976c80d06f7ea3ea9)
def gPt : Nat × Nat × Nat := (Config.gx, Config.gy, 1)

/-! ### Well-formedness: one ill-formed term for each check -/

theorem test_illformed_pdbl_rd : Instr.wellFormed (.pdbl 14 0) = false := by decide
theorem test_illformed_pdbl_ra : Instr.wellFormed (.pdbl 0 14) = false := by decide
theorem test_illformed_padd_rd : Instr.wellFormed (.padd 14 0 0) = false := by decide
theorem test_illformed_padd_ra : Instr.wellFormed (.padd 0 14 0) = false := by decide
theorem test_illformed_padd_rb : Instr.wellFormed (.padd 0 0 14) = false := by decide
theorem test_illformed_pmul_rd : Instr.wellFormed (.pmul 15 0 0) = false := by decide
theorem test_illformed_pmul_rb : Instr.wellFormed (.pmul 0 0 14) = false := by decide
theorem test_illformed_pchk_ra : Instr.wellFormed (.pchk 14) = false := by decide
theorem test_illformed_paff_rd : Instr.wellFormed (.paff 14 0) = false := by decide
theorem test_illformed_paff_ra : Instr.wellFormed (.paff 0 15) = false := by decide
theorem test_illformed_pdec_rd : Instr.wellFormed (.pdec 14 0) = false := by decide
theorem test_illformed_penc_ra : Instr.wellFormed (.penc 0 14) = false := by decide
theorem test_illformed_keygen_rd : Instr.wellFormed (.keygen 15) = false := by decide
theorem test_illformed_sign_rd : Instr.wellFormed (.sign 15 0 0) = false := by decide
theorem test_illformed_verify_rc : Instr.wellFormed (.verify 0 0 15) = false := by decide
theorem test_wellformed_limits :
    Instr.wellFormed (.padd 13 13 13) = true ∧ Instr.wellFormed (.pmul 13 15 13) = true ∧
    Instr.wellFormed (.penc 15 13) = true ∧ Instr.wellFormed (.sign 14 15 15) = true ∧
    Instr.wellFormed (.verify 15 15 14) = true ∧ Instr.wellFormed (.fadd 15 15 15) = true := by decide

/-! ### Decoding and encoding: the words of R97, V10 and V20 to V64 -/

theorem test_decode_nop : decode 0x00000000#32 = .ok (.nop) ∧ encode (.nop) = 0x00000000#32 := by decide
theorem test_decode_fadd : decode 0x01FFF000#32 = .ok (.fadd 15 15 15) ∧ encode (.fadd 15 15 15) = 0x01FFF000#32 := by decide
theorem test_decode_fsub : decode 0x02655000#32 = .ok (.fsub 6 5 5) ∧ encode (.fsub 6 5 5) = 0x02655000#32 := by decide
theorem test_decode_fmul : decode 0x03201000#32 = .ok (.fmul 2 0 1) ∧ encode (.fmul 2 0 1) = 0x03201000#32 := by decide
theorem test_decode_fsqr : decode 0x04200000#32 = .ok (.fsqr 2 0) ∧ encode (.fsqr 2 0) = 0x04200000#32 := by decide
theorem test_decode_finv : decode 0x05400000#32 = .ok (.finv 4 0) ∧ encode (.finv 4 0) = 0x05400000#32 := by decide
theorem test_decode_nadd : decode 0x11201000#32 = .ok (.nadd 2 0 1) ∧ encode (.nadd 2 0 1) = 0x11201000#32 := by decide
theorem test_decode_nsub : decode 0x12201000#32 = .ok (.nsub 2 0 1) ∧ encode (.nsub 2 0 1) = 0x12201000#32 := by decide
theorem test_decode_nmul : decode 0x13201000#32 = .ok (.nmul 2 0 1) ∧ encode (.nmul 2 0 1) = 0x13201000#32 := by decide
theorem test_decode_nsqr : decode 0x14200000#32 = .ok (.nsqr 2 0) ∧ encode (.nsqr 2 0) = 0x14200000#32 := by decide
theorem test_decode_ninv : decode 0x15200000#32 = .ok (.ninv 2 0) ∧ encode (.ninv 2 0) = 0x15200000#32 := by decide
theorem test_decode_nred : decode 0x16110000#32 = .ok (.nred 1 1) ∧ encode (.nred 1 1) = 0x16110000#32 := by decide
theorem test_decode_nrand : decode 0x17300000#32 = .ok (.nrand 3) ∧ encode (.nrand 3) = 0x17300000#32 := by decide
theorem test_decode_pdbl : decode 0x21DD0000#32 = .ok (.pdbl 13 13) ∧ encode (.pdbl 13 13) = 0x21DD0000#32 := by decide
theorem test_decode_padd : decode 0x22036000#32 = .ok (.padd 0 3 6) ∧ encode (.padd 0 3 6) = 0x22036000#32 := by decide
theorem test_decode_pmul : decode 0x23CF0000#32 = .ok (.pmul 12 15 0) ∧ encode (.pmul 12 15 0) = 0x23CF0000#32 := by decide
theorem test_decode_pchk : decode 0x240D0000#32 = .ok (.pchk 13) ∧ encode (.pchk 13) = 0x240D0000#32 := by decide
theorem test_decode_paff : decode 0x25300000#32 = .ok (.paff 3 0) ∧ encode (.paff 3 0) = 0x25300000#32 := by decide
theorem test_decode_pdec : decode 0x26700000#32 = .ok (.pdec 7 0) ∧ encode (.pdec 7 0) = 0x26700000#32 := by decide
theorem test_decode_penc : decode 0x27F00000#32 = .ok (.penc 15 0) ∧ encode (.penc 15 0) = 0x27F00000#32 := by decide
theorem test_decode_keygen : decode 0x31E00000#32 = .ok (.keygen 14) ∧ encode (.keygen 14) = 0x31E00000#32 := by decide
theorem test_decode_sign : decode 0x32402000#32 = .ok (.sign 4 0 2) ∧ encode (.sign 4 0 2) = 0x32402000#32 := by decide
theorem test_decode_verify : decode 0x33012400#32 = .ok (.verify 1 2 4) ∧ encode (.verify 1 2 4) = 0x33012400#32 := by decide

/-- One word of each family bit by bit: op, rd, ra, rb, rc, zero (R90, R93). -/
theorem test_decode_bits :
    decode 0b00000000000000000000000000000000#32 = .ok .nop ∧
    decode 0b00000010001100010010000000000000#32 = .ok (.fsub 3 1 2) ∧
    decode 0b00010011101001010110000000000000#32 = .ok (.nmul 10 5 6) ∧
    decode 0b00100011000111110100000000000000#32 = .ok (.pmul 1 15 4) ∧
    decode 0b00100110011111010000000000000000#32 = .ok (.pdec 7 13) ∧
    decode 0b00110011000000010010010000000000#32 = .ok (.verify 1 2 4) := by decide

/-- The illegal words of V11, by the clause that rejects each. -/
theorem test_illegal_words :
    decode 0x03201001#32 = .error .zeroByte ∧ decode 0x03201100#32 = .error .unusedField ∧
    decode 0x04201000#32 = .error .unusedField ∧ decode 0x00100000#32 = .error .unusedField ∧
    decode 0x06000000#32 = .error .opcode ∧ decode 0x10000000#32 = .error .opcode ∧
    decode 0x18000000#32 = .error .opcode ∧ decode 0x20000000#32 = .error .opcode ∧
    decode 0x28000000#32 = .error .opcode ∧ decode 0x30000000#32 = .error .opcode ∧
    decode 0x34000000#32 = .error .opcode ∧ decode 0xFF000000#32 = .error .opcode ∧
    decode 0x210E0000#32 = .error .pointIndex ∧ decode 0x21E00000#32 = .error .pointIndex ∧
    decode 0x2300E000#32 = .error .pointIndex ∧ decode 0x24130000#32 = .error .unusedField ∧
    decode 0x31F00000#32 = .error .pairIndex ∧ decode 0x33012F00#32 = .error .pairIndex ∧
    decode 0x33112400#32 = .error .unusedField ∧ decode 0x26E00000#32 = .error .pointIndex ∧
    decode 0x270E0000#32 = .error .pointIndex ∧ decode 0xFFFFFFFF#32 = .error .zeroByte := by decide

theorem test_decodeTableWord :
    decodeTableWord 32 0x03201000 = some (.fmul 2 0 1) ∧ decodeTableWord 32 0x03201100 = none := by decide

/-! ### Commands: one step each -/

/-- V80: NOP leaves the flags. -/
theorem test_nop_keeps_flags :
    shows 0 { running 0x00000000 [] with flags := ⟨false, false, true⟩ } = some ([0, 0, 0], 0, 4, 0x02) := by decide +kernel
/-- V11p: an illegal word completes with outcome 5. -/
theorem test_illegal_completes : shows 0 (running 0xFFFFFFFF [(0, 1)]) = some ([1, 0, 0], 0, 0, 0x52) := by decide +kernel
/-- V20c. -/
theorem test_fadd_carry :
    shows 2 (running 0x01201000 ([(0, Config.p - 1), (1, Config.p - 1)])) =
      some ([Config.p - 2, 0, 0], 0, 0, 0x2) := by decide +kernel
/-- V20e. -/
theorem test_fadd_out_of_range :
    shows 2 (running 0x01201000 ([(0, Config.p)])) =
      some ([0, 0, 0], 0, 0, 0x22) := by decide +kernel
/-- V21a. -/
theorem test_fsub :
    shows 2 (running 0x02201000 ([(0, valA), (1, valC)])) =
      some ([0x13579c6e09468ace13579c6f09468acd13579c7009468acd13579c6f09468acd, 0, 0], 0, 0, 0x2) := by decide +kernel
/-- V21c. -/
theorem test_fsub_borrow :
    shows 2 (running 0x02201000 ([(1, 1)])) =
      some ([Config.p - 1, 0, 0], 0, 0, 0x2) := by decide +kernel
/-- V22a. -/
theorem test_fmul :
    shows 2 (running 0x03201000 ([(0, valA), (1, valC)])) =
      some ([0x30f7a9d8a7a6051f213ee09c7b80ef9c6c5177f341f956733e54855f4154e4c4, 0, 0], 0, 0, 0x2) := by decide +kernel
/-- V22f. -/
theorem test_fmul_out_of_range :
    shows 2 (running 0x03201000 ([(0, valA), (1, Config.p)])) =
      some ([0, 0, 0], 0, 0, 0x22) := by decide +kernel
/-- V23a. -/
theorem test_fsqr :
    shows 2 (running 0x04200000 ([(0, valA)])) =
      some ([0x750a9d28bb7438877f96458f0cb1334bfb587276c9aa6dc39714291a1a14b143, 0, 0], 0, 0, 0x2) := by decide +kernel
/-- V24a. -/
theorem test_finv :
    shows 2 (running 0x05200000 ([(0, valA)])) =
      some ([0x8056a93bbc74c29585a874f6b858572477c5f7aa71a2d0b0416f09ed94008b74, 0, 0], 0, 0, 0x2) := by decide +kernel
/-- V24f. -/
theorem test_finv_zero :
    shows 2 (running 0x05200000 ([])) =
      some ([0, 0, 0], 0, 1, 0x2) := by decide +kernel
/-- V25. -/
theorem test_fadd_in_place :
    shows 0 (running 0x01000000 ([(0, valA)])) =
      some ([0x2468acf121579bde2468acf121579bde2468acf121579bde2468acf121579bde, 0, 0], 0, 0, 0x2) := by decide +kernel
/-- V30a. -/
theorem test_nadd :
    shows 2 (running 0x11201000 ([(0, valA), (1, valC)])) =
      some ([0x11111083181111101111108218111111542a15d470f9728c1d5745bf1badebbf, 0, 0], 0, 0, 0x2) := by decide +kernel
/-- V30e: p - 1 is no Scalar. -/
theorem test_nadd_out_of_range :
    shows 2 (running 0x11201000 ([(0, Config.p - 1)])) =
      some ([0, 0, 0], 0, 0, 0x22) := by decide +kernel
/-- V31a. -/
theorem test_nsub :
    shows 2 (running 0x12201000 ([(0, valA), (1, valC)])) =
      some ([0x13579c6e09468ace13579c6f09468accd03e971cb05e29520711673205a9b01f, 0, 0], 0, 0, 0x2) := by decide +kernel
/-- V31b. -/
theorem test_nsub_borrow :
    shows 2 (running 0x12201000 ([(1, 1)])) =
      some ([Config.n - 1, 0, 0], 0, 0, 0x2) := by decide +kernel
/-- V32a. -/
theorem test_nmul :
    shows 2 (running 0x13201000 ([(0, valA), (1, valC)])) =
      some ([0x544b326fbeea4277596e4d77c0b32a161afcf4d420603366e90af5b3a4277657, 0, 0], 0, 0, 0x2) := by decide +kernel
/-- V33a. -/
theorem test_nsqr :
    shows 2 (running 0x14200000 ([(0, valA)])) =
      some ([0x93d4a2e393fe1a621bc0db9969dc1e68d7f91ee24ae8e04aad53ce0e834851d8, 0, 0], 0, 0, 0x2) := by decide +kernel
/-- V34a. -/
theorem test_ninv :
    shows 2 (running 0x15200000 ([(0, valA)])) =
      some ([0xddbe67fb14714ab5c0d909913a16bb6a2af63adfab8d3a5be98658011a910777, 0, 0], 0, 0, 0x2) := by decide +kernel
/-- V34e. -/
theorem test_ninv_zero :
    shows 2 (running 0x15200000 ([])) =
      some ([0, 0, 0], 0, 1, 0x2) := by decide +kernel
/-- V35a. -/
theorem test_nred :
    shows 2 (running 0x16200000 ([(0, 2 ^ 256 - 1)])) =
      some ([0xffffffff00000000000000004319055258e8617b0c46353d039cdaae, 0, 0], 0, 0, 0x2) := by decide +kernel
/-- V35c. -/
theorem test_nred_n :
    shows 2 (running 0x16200000 ([(0, Config.n)])) =
      some ([0, 0, 0], 0, 1, 0x2) := by decide +kernel
/-- V36a, after the answer 7. -/
theorem test_nrand :
    shows 3 (running 0x17300000 ([(3, 0x55)]) 0 (drew 7)) =
      some ([7, 0, 0], 0, 0, 0x2) := by decide +kernel
/-- V36g. -/
theorem test_nrand_unavailable :
    shows 3 (running 0x17300000 ([(3, 0x55)]) 0 (some .unavailable)) =
      some ([0x55, 0, 0], 0, 0, 0x12) := by decide +kernel
/-- V83: the first draw is requested under every limit. -/
theorem test_nrand_waits : shows 3 (running 0x17300000 [(3, 0x55)]) = some ([0x55, 0, 0], 0, 0, 0x05) := by decide +kernel
/-- V36h: two draws are made and rejected, and the third is not requested under the limit 2. -/
theorem test_nrand_limit :
    isNext (nrandUnder (some ⟨2, by decide⟩) 3 { running 0x17300000 [(3, 0x55)] with
        hidden := some ⟨regsOf [(3, 0x55)], 0, 2, drew 0⟩ })
      (State.raise (running 0x17300000 [(3, 0x55)]) .randomUnavailable) = true := by decide +kernel
/-- V41a. -/
theorem test_pdbl :
    shows 3 (running 0x21300000 (at3 0 gPt)) =
      some ([0x9a978f59acd1b5ad570e7d52dcfcde43804b42274f61ddcf1e7d848391d6c70f, 0x4126885e7f786af905338238e5346d5fe77fc46388668bd0fd59be3190d2f5d1, 0x9fc685c5fc34ff371dcfd694f81f3c2c579c66aed662bd9d976c80d06f7ea3ea], 0, 0, 0x2) := by decide +kernel
/-- V41g. -/
theorem test_pdbl_off_curve :
    shows 3 (running 0x21300000 (at3 0 (1, 1, 1))) =
      some ([Config.p - 8, Config.p - 8, 2], 0, 0, 0x2) := by decide +kernel
/-- V42a. -/
theorem test_padd :
    shows 6 (running 0x22603000 (at3 0 g2 ++ at3 3 gPt)) =
      some ([0xec88440c8b00a9e572bf1bceb7d0c5906bd65990a9b7081130bd72e2c136ca0, 0xc0bc77e1339e899101f8e8eccf79c3f7f4bbdd1bf96f6446199bd423026a60d6, 0xdd27cb52a31d1f6e041accf1103de05ba0a5edd74b738d51fe3397de0e3fc306], 0, 0, 0x2) := by decide +kernel
/-- V42i. -/
theorem test_padd_same_point :
    shows 6 (running 0x22603000 (at3 0 gs ++ at3 3 gPt)) =
      some ([0x978f5a46d1b5acbd0e7d52dcfcde43804b4226b561ddcf1e7d848391d6c70f9a, 0x6885ec0986af8c4138238e5346d5fe77fc46347468bd0fd59be3190d2f5d1412, 0xfc685c68c34ff368dcfd694f81f3c2c579c66ae4662bd9d976c80d06f7ea3ea9], 0, 0, 0x2) := by decide +kernel
/-- V43i. -/
theorem test_pmul :
    shows 3 (running 0x23360000 (at3 0 g2 ++ [(6, 5)])) =
      some ([0xcef66d6b2a3a993e591214d1ea223fb545ca6c471c48306e4c36069404c5723f, 0x878662a229aaae906e123cdd9d3b4c10590ded29fe751eeeca34bbaa44af0773, 1], 0, 0, 0x2) := by decide +kernel
/-- V43o. -/
theorem test_pmul_off_curve :
    shows 3 (running 0x23360000 (at3 0 (Config.gx, Config.gy + 1, 1))) =
      some ([0, 0, 0], 0, 0, 0x22) := by decide +kernel
/-- V44c. -/
theorem test_pchk :
    shows 0 (running 0x24000000 (at3 0 gs)) =
      some ([0xac5f47cc84b1091ee2f39b958e9103c9dc0df603b7acce83d284e51762630a59, 0x7f1a1719f0d3fcda773f5a53e07cf0b15e719ab9598af6765db20341bdfa8faa, 2], 0, 4, 0x2) := by decide +kernel
/-- V44f. -/
theorem test_pchk_identity :
    shows 0 (running 0x24000000 (at3 0 (Config.gx, Config.gy, 0))) =
      some ([Config.gx, Config.gy, 0], 0, 2, 0x2) := by decide +kernel
/-- V45d. -/
theorem test_paff :
    shows 3 (running 0x25300000 (at3 0 g3b)) =
      some ([0x5ecbe4d1a6330a44c8f7ef951d4bf165e6c6b721efada985fb41661bc6e7fd6c, 0x8734640c4998ff7e374b06ce1a64a2ecd82ab036384fb83d9a79b127a27d5032, 1], 0, 0, 0x2) := by decide +kernel
/-- V45f. -/
theorem test_paff_identity :
    shows 3 (running 0x25300000 (at3 0 (9, 9, 0))) =
      some ([0, 0, 0], 0, 2, 0x2) := by decide +kernel
/-- V51. -/
theorem test_pdec :
    shows 3 (running 0x26300000 ([(0, Config.gx)]) 2) =
      some ([Config.gx, Config.p - Config.gy, 1], 2, 0, 0x2) := by decide +kernel
/-- V54a. -/
theorem test_pdec_no_point :
    shows 3 (running 0x26300000 ([(0, 1)]) 2) =
      some ([0, 0, 0], 2, 0, 0x42) := by decide +kernel
/-- V56b. -/
theorem test_penc :
    shows 6 (running 0x27600000 (at3 0 gs)) =
      some ([Config.gx, 0, 0], 3, 0, 0x2) := by decide +kernel
/-- V56g. -/
theorem test_penc_identity :
    shows 6 (running 0x27600000 (at3 0 (Config.gx, Config.gy, 0))) =
      some ([0, 0, 0], 0, 0, 0x22) := by decide +kernel
/-- V60a, after the answer 0xab73. -/
theorem test_keygen :
    shows 0 (running 0x31000000 ([]) 0 (drew 0xab73)) =
      some ([0xab73, qx, 0], 2, 0, 0x2) := by decide +kernel
/-- V60, after the answer 0x1e98. -/
theorem test_sign :
    shows 4 (running 0x32402000 ([(0, 0xab73), (2, digest)]) 0 (drew 0x1e98)) =
      some ([sigR, sigS, 0], 0, 0, 0x2) := by decide +kernel
/-- V62: s = 0 asks for a new nonce. -/
theorem test_sign_retry :
    signWith 0xab73 0x81bf41a3a24166bdeeb8408a53dfb887a74ffc62210cffb5075f9541a9af3fbf 0x1e98 = none := by decide +kernel
/-- V65e. -/
theorem test_verify_twin :
    shows 0 (running 0x33012400 ([(1, qx), (2, digest), (4, sigR), (5, Config.n - sigS)]) 2) =
      some ([0, qx, digest], 2, 4, 0x2) := by decide +kernel
/-- V65d. -/
theorem test_verify_wrong_parity :
    shows 0 (running 0x33012400 ([(1, qx), (2, digest), (4, sigR), (5, sigS)]) 3) =
      some ([0, qx, digest], 3, 0, 0x32) := by decide +kernel

/-! ### The ports -/

/-- V1a, V1c, V1d, V1e, V1f. -/
theorem test_reads :
    answers State.reset (.read 0x000 4) = some (.read .okay 0x50323536) ∧
    answers State.reset (.read 0x002 4) = some (.read .error 0) ∧
    answers State.reset (.read 0x000 2) = some (.read .error 0) ∧
    answers State.reset (.read 0x01C 4) = some (.read .error 0) ∧
    answers State.reset (.write 0x1FC 4 1) = some (.write .error) ∧
    answers State.reset (.read 0x3FC 4) = some (.read .okay 0) := by decide +kernel

/-- V2a: word 0 is the most significant, byte 0 of the buffer is 0x01. -/
theorem test_operand_bytes :
    let s := serve State.reset (.write 0x200 4 0x01020304)
    (s.reg 0).toNat = 0x01020304 * 2 ^ 224 ∧ valueByte (s.reg 0) 0 = 0x01 ∧ valueByte (s.reg 0) 3 = 0x04 := by
  decide +kernel

/-- V84, V85, V87, V89: the port while a command waits for the source. -/
theorem test_busy_port :
    let s := { running 0x17300000 [(3, 0x55)] with rngwait := true }
    answers s (.read 0x260 4) = some (.read .okay 0) ∧ (serve s (.read 0x018 4)).fsticky = 0x100 ∧
    (serve s (.write 0x004 4 0)).cmd = 0x17300000 ∧ (serve s (.write 0x004 4 0)).fsticky = 0x100 ∧
    (serve s (.write 0x200 4 0xFFFFFFFF)).regs = s.regs ∧ (serve s (.read 0x008 4)).fsticky = 0 ∧
    { serve s (.write 0x010 4 2) with portAnswer := none } = State.reset := by decide +kernel

/-- V3j: a write of FSTICKY sets no bit; R68: it clears the written ones. -/
theorem test_fsticky :
    (serve State.reset (.write 0x014 4 4)).fsticky = 0 ∧
    (serve { State.reset with fsticky := 0x13E } (.write 0x014 4 0x104)).fsticky = 0x03A := by decide +kernel

/-- A command placed where `step` takes its next one runs at the next step. -/
theorem test_withFetchWord :
    shows 2 (State.withFetchWord { State.reset with regs := regsOf [(0, 2), (1, 3)] } 32 0x03201000) =
      some ([6, 0, 0], 0, 0, 0x02) := by decide +kernel

/-- From reset: the host writes r0, then CMD; the core completes FADD r0, r0, r0 at its turn (R73, R76). -/
theorem test_host_issues_command :
    (after 3 { State.reset with
      agenda := [.host (.write 0x21C 4 21), .host (.write 0x004 4 0x01000000), .core] }).map
        (fun t => ((t.reg 0).toNat, t.done)) = some (42, true) := by decide +kernel

/-! ### Witnesses: for each statement with hypotheses, a case that meets them, at a boundary for each clause -/

/-- The premise of the two encoding statements, at the largest indices. -/
theorem witness_DecodeOfEncode :
    Instr.wellFormed (.padd 13 13 13) = true ∧ Instr.wellFormed (.verify 15 15 14) = true ∧
    Instr.wellFormed (.keygen 0) = true := by decide

theorem witness_EncodeOfDecode :
    decode 0x22DDD000#32 = .ok (.padd 13 13 13) ∧ decode 0x33FF0000#32 = .error .unusedField ∧
    decode 0x330FFE00#32 = .ok (.verify 15 15 14) := by decide

theorem witness_MaskMatchSelectsRow :
    0x21FF0000#32 &&& rowMask (.pdbl 0 0) = rowMatch (.pdbl 0 0) ∧ encode (.pdbl 15 15) = 0x21FF0000#32 ∧
    0x21FF1000#32 &&& rowMask (.pdbl 0 0) ≠ rowMatch (.pdbl 0 0) := by decide

/-- Sources at p - 1 and at p. -/
theorem witness_FieldAddSubMulRules :
    (running 0x01201000 [(0, Config.p - 1), (1, Config.p - 1)]).hidden =
      some (holding [(0, Config.p - 1), (1, Config.p - 1)] 0 none) ∧
    Spec.src (holding [(0, Config.p - 1), (1, Config.p - 1)] 0 none) 0 < Config.p ∧
    Spec.src (holding [(0, Config.p - 1), (1, Config.p - 1)] 0 none) 1 < Config.p ∧
    Config.p ≤ Spec.src (holding [(0, 0), (1, Config.p)] 0 none) 1 := by decide +kernel

theorem witness_FsqrRule :
    Spec.src (holding [(15, Config.p - 1)] 0 none) (15#4).toNat < Config.p ∧
    Config.p ≤ Spec.src (holding [(15, Config.p)] 0 none) (15#4).toNat := by decide +kernel

theorem witness_FinvRule :
    Spec.src (holding [] 0 none) 0 = 0 ∧ Spec.src (holding [(0, Config.p - 1)] 0 none) 0 < Config.p ∧
    Spec.src (holding [(0, Config.p - 1)] 0 none) 0 ≠ 0 ∧ Config.p ≤ Spec.src (holding [(0, Config.p)] 0 none) 0 ∧
    (Config.p - 1) * (Config.p - 1) % Config.p = 1 := by decide +kernel

theorem witness_ScalarAddSubMulRules :
    (running 0x11201000 [(0, Config.n - 1), (1, Config.n - 1)]).hidden =
      some (holding [(0, Config.n - 1), (1, Config.n - 1)] 0 none) ∧
    Spec.src (holding [(0, Config.n - 1), (1, Config.n - 1)] 0 none) 0 < Config.n ∧
    Spec.src (holding [(0, Config.n - 1), (1, Config.n - 1)] 0 none) 1 < Config.n ∧
    Config.n ≤ Spec.src (holding [(0, 0), (1, Config.n)] 0 none) 1 := by decide +kernel

theorem witness_NsqrRule :
    Spec.src (holding [(15, Config.n - 1)] 0 none) (15#4).toNat < Config.n ∧
    Config.n ≤ Spec.src (holding [(15, Config.n)] 0 none) (15#4).toNat := by decide +kernel

theorem witness_NinvRule :
    Spec.src (holding [] 0 none) 0 = 0 ∧ Spec.src (holding [(0, Config.n - 1)] 0 none) 0 < Config.n ∧
    Spec.src (holding [(0, Config.n - 1)] 0 none) 0 ≠ 0 ∧ Config.n ≤ Spec.src (holding [(0, Config.n)] 0 none) 0 ∧
    (Config.n - 1) * (Config.n - 1) % Config.n = 1 := by decide +kernel

theorem witness_NredRule :
    (running 0x16200000 [(0, Config.n)]).hidden = some (holding [(0, Config.n)] 0 none) ∧
    Config.n ≤ Spec.src (holding [(0, Config.n)] 0 none) 0 ∧
    Spec.src (holding [(0, Config.n - 1)] 0 none) 0 < Config.n := by decide +kernel

/-- Draws 0 and n are rejected, 1 and n - 1 accepted; the limit is met and not met. -/
theorem witness_SamplerRule :
    (running 0x17300000 [] 0 (drew (Config.n - 1))).hidden = some (holding [] 0 (drew (Config.n - 1))) ∧
    Spec.mustDraw (holding [] 0 none) ∧ Spec.mustDraw (holding [] 0 (drew 0)) ∧
    Spec.mustDraw (holding [] 0 (drew Config.n)) ∧ (holding [] 0 (some .unavailable)).drawn = some .unavailable ∧
    (holding [] 0 (drew (Config.n - 1))).drawn = some (.value (BitVec.ofNat 256 (Config.n - 1))) ∧
    1 ≤ (BitVec.ofNat 256 (Config.n - 1)).toNat ∧ (BitVec.ofNat 256 (Config.n - 1)).toNat ≤ Config.n - 1 ∧
    (some (⟨1, by decide⟩ : { k : Nat // 0 < k })).map (·.val) = some (holding [] 0 (drew 0)).draws ∧
    (none : Config.DrawLimit).map (·.val) ≠ some (holding [] 0 (drew 0)).draws :=
  ⟨by decide +kernel, .inl rfl, .inr ⟨_, rfl, .inl (by decide +kernel)⟩, .inr ⟨_, rfl, .inr (by decide +kernel)⟩,
   rfl, rfl, by decide +kernel, by decide +kernel, by decide +kernel, by decide +kernel⟩

/-- The same hypotheses for NRAND, KEYGEN and SIGN. -/
theorem witness_accepts (l : List (Nat × Nat)) :
    Spec.accepts (holding l 0 (drew 1)) 1 ∧ Spec.accepts (holding l 0 (drew (Config.n - 1))) (Config.n - 1) :=
  ⟨⟨1, rfl, by decide +kernel, by decide +kernel, by decide +kernel⟩,
   ⟨BitVec.ofNat 256 (Config.n - 1), rfl, by decide +kernel, by decide +kernel, by decide +kernel⟩⟩

theorem witness_NrandRule :
    (running 0x17300000 [] 0 (drew 1)).hidden = some (holding [] 0 (drew 1)) ∧ Spec.accepts (holding [] 0 (drew 1)) 1 :=
  ⟨by decide +kernel, (witness_accepts []).1⟩

theorem witness_PdblRule :
    (running 0x21DD0000 (at3 13 gPt)).hidden = some (holding (at3 13 gPt) 0 none) ∧ (13#4).toNat ≤ 13 ∧
    Spec.inField (Spec.srcPoint (holding (at3 13 gPt) 0 none) 13) ∧
    ¬ Spec.inField (Spec.srcPoint (holding (at3 13 (Config.p, 0, 0)) 0 none) 13) := by
  unfold Spec.inField; decide +kernel

theorem witness_PaddRule :
    (running 0x22603000 (at3 0 gPt ++ at3 3 gPt)).hidden = some (holding (at3 0 gPt ++ at3 3 gPt) 0 none) ∧
    Spec.inField (Spec.srcPoint (holding (at3 0 gPt ++ at3 3 gPt) 0 none) 0) ∧
    Spec.inField (Spec.srcPoint (holding (at3 0 gPt ++ at3 3 gPt) 0 none) 3) ∧
    ¬ Spec.inField (Spec.srcPoint (holding (at3 3 (0, 0, Config.p)) 0 none) 3) := by
  unfold Spec.inField; decide +kernel

/-- k = n - 1 and k = n; a base on the curve, an identity, a base off the curve, a base out of range. -/
theorem witness_PmulRule :
    Spec.src (holding (at3 0 gPt ++ [(6, Config.n - 1)]) 0 none) 6 < Config.n ∧
    Config.n ≤ Spec.src (holding (at3 0 gPt ++ [(6, Config.n)]) 0 none) 6 ∧
    Spec.inField (Spec.srcPoint (holding (at3 0 gPt ++ [(6, Config.n - 1)]) 0 none) 0) ∧
    Spec.onCurve (Spec.srcPoint (holding (at3 0 gPt ++ [(6, Config.n - 1)]) 0 none) 0) ∧
    Spec.onCurve (Spec.srcPoint (holding (at3 0 (3, 4, 0)) 0 none) 0) ∧
    ¬ Spec.onCurve (Spec.srcPoint (holding (at3 0 (Config.gx, Config.gy + 1, 1)) 0 none) 0) ∧
    ¬ Spec.inField (Spec.srcPoint (holding (at3 0 (Config.gx, Config.gy, Config.p)) 0 none) 0) := by
  unfold Spec.inField Spec.onCurve Spec.equation; decide +kernel

theorem witness_PchkRule :
    (running 0x240D0000 (at3 13 gPt)).hidden = some (holding (at3 13 gPt) 0 none) ∧
    Spec.inField (Spec.srcPoint (holding (at3 13 gPt) 0 none) 13) ∧
    (Spec.srcPoint (holding (at3 13 gPt) 0 none) 13).z ≠ 0 ∧ Spec.equation (Spec.srcPoint (holding (at3 13 gPt) 0 none) 13) ∧
    (Spec.srcPoint (holding [] 0 none) 13).z = 0 ∧ Spec.inField (Spec.srcPoint (holding [] 0 none) 13) ∧
    Spec.inField (Spec.srcPoint (holding (at3 13 (Config.gx, Config.gy + 1, 1)) 0 none) 13) ∧
    ¬ Spec.equation (Spec.srcPoint (holding (at3 13 (Config.gx, Config.gy + 1, 1)) 0 none) 13) ∧
    ¬ Spec.inField (Spec.srcPoint (holding (at3 13 (0, Config.p, 0)) 0 none) 13) := by
  unfold Spec.inField Spec.equation; decide +kernel

theorem witness_PaffRule :
    (running 0x25DD0000 (at3 13 gs)).hidden = some (holding (at3 13 gs) 0 none) ∧
    Spec.inField (Spec.srcPoint (holding (at3 13 gs) 0 none) 13) ∧
    ¬ Spec.inField (Spec.srcPoint (holding (at3 13 (0, 0, Config.p)) 0 none) 13) := by
  unfold Spec.inField; decide +kernel

/-- V54a, V54b: x = 1 has no root (1 - 3 + b is no square, by Euler's criterion). -/
theorem no_root_one (tag : Byte) : ∀ y, ¬ Spec.isRoot 1 tag y := by
  intro y hy
  have hp : Fact (Nat.Prime Config.p) := ⟨p_prime⟩
  have hsq : (y : ZMod Config.p) ^ 2 = ((Config.b - 2 : ℕ) : ZMod Config.p) := by
    have h := (Int.dvd_iff_emod_eq_zero).2 hy.2.1
    rw [← ZMod.intCast_zmod_eq_zero_iff_dvd] at h
    rw [Nat.cast_sub (by decide)]
    push_cast at h ⊢
    linear_combination h
  have hne : (y : ZMod Config.p) ≠ 0 := by
    intro h0
    rw [h0] at hsq
    have h1 : ((Config.b - 2 : ℕ) : ZMod Config.p) = 0 := by rw [← hsq]; ring
    rw [ZMod.natCast_eq_zero_iff] at h1
    exact absurd (Nat.le_of_dvd (by decide) h1) (by decide)
  have hone := ZMod.pow_card_sub_one_eq_one hne
  rw [show Config.p - 1 = 2 * ((Config.p - 1) / 2) by decide, pow_mul, hsq] at hone
  have hval : powMod Config.p (Config.b - 2) ((Config.p - 1) / 2) = Config.p - 1 := by decide +kernel
  rw [powMod_eq (by decide)] at hval
  have hcast := congrArg (Nat.cast (R := ZMod Config.p)) hval
  rw [ZMod.natCast_mod, Nat.cast_pow, hone, Nat.cast_sub (by decide), ZMod.natCast_self] at hcast
  have h2 : ((2 : ℕ) : ZMod Config.p) = 0 := by
    push_cast at hcast ⊢
    linear_combination hcast
  rw [ZMod.natCast_eq_zero_iff] at h2
  exact absurd (Nat.le_of_dvd (by decide) h2) (by decide)

/-- Tags 0x02 and 0x04; x = p; x = 1 without a root; x = Gx with one. -/
theorem witness_PdecRule :
    (running 0x26300000 [(0, Config.gx)] 3).hidden = some (holding [(0, Config.gx)] 3 none) ∧
    Spec.isTag 0x02#8 ∧ ¬ Spec.isTag 0x04#8 ∧ Config.p ≤ Spec.src (holding [(0, Config.p)] 2 none) 0 ∧
    (∀ y, ¬ Spec.isRoot (Spec.src (holding [(0, 1)] 2 none) 0) 0x02#8 y) ∧
    Spec.isRoot (Spec.src (holding [(0, Config.gx)] 3 none) 0) 0x03#8 Config.gy := by
  refine ⟨by decide +kernel, .inl rfl, ?_, by decide +kernel, ?_, ?_⟩
  · unfold Spec.isTag; decide
  · rw [show Spec.src (holding [(0, 1)] 2 none) 0 = 1 by decide +kernel]
    exact no_root_one _
  · unfold Spec.isRoot; decide +kernel

theorem witness_PencRule :
    Spec.inField (Spec.srcPoint (holding (at3 13 gs) 0 none) 13) ∧ (Spec.srcPoint (holding (at3 13 gs) 0 none) 13).z ≠ 0 ∧
    (Spec.srcPoint (holding [] 0 none) 13).z = 0 ∧
    ¬ Spec.inField (Spec.srcPoint (holding (at3 13 (0, Config.p, 1)) 0 none) 13) := by
  unfold Spec.inField; decide +kernel

theorem witness_KeygenRule :
    (running 0x31E00000 [] 0 (drew 1)).hidden = some (holding [] 0 (drew 1)) ∧ (14#4).toNat ≤ 14 ∧
    Spec.accepts (holding [] 0 (drew 1)) 1 ∧ Spec.mustDraw (holding [] 0 none) ∧
    (holding [] 0 (some .unavailable)).drawn = some .unavailable :=
  ⟨by decide +kernel, by decide, (witness_accepts []).1, .inl rfl, rfl⟩

/-- Private keys 0, n, 1 and n - 1; an attempt that completes and one with s = 0. -/
theorem witness_SignRule :
    Spec.src (holding [] 0 none) 0 = 0 ∧ Config.n ≤ Spec.src (holding [(0, Config.n)] 0 none) 0 ∧
    1 ≤ Spec.src (holding [(0, Config.n - 1)] 0 none) 0 ∧ Spec.src (holding [(0, Config.n - 1)] 0 none) 0 < Config.n ∧
    Spec.accepts (holding [(0, Config.n - 1)] 0 (drew 1)) 1 ∧
    signWith 0xab73 digest 0x1e98 = some (sigR, sigS) ∧
    signWith 0xab73 0x81bf41a3a24166bdeeb8408a53dfb887a74ffc62210cffb5075f9541a9af3fbf 0x1e98 = none :=
  ⟨by decide +kernel, by decide +kernel, by decide +kernel, by decide +kernel, (witness_accepts _).1,
   by decide +kernel, by decide +kernel⟩

/-- Signature halves 0, n and n - 1; keys that do not decode; a key that does. -/
theorem witness_VerifyRule :
    Spec.src (holding [(4, 0), (5, 1)] 2 none) 4 = 0 ∧ Config.n ≤ Spec.src (holding [(4, 1), (5, Config.n)] 2 none) 5 ∧
    1 ≤ Spec.src (holding [(1, qx), (4, Config.n - 1), (5, Config.n - 1)] 2 none) 4 ∧
    Spec.src (holding [(1, qx), (4, Config.n - 1), (5, Config.n - 1)] 2 none) 4 < Config.n ∧
    Spec.isTag (holding [(1, qx)] 2 none).pktag ∧ Spec.src (holding [(1, qx)] 2 none) 1 < Config.p ∧
    Spec.isRoot (Spec.src (holding [(1, qx)] 2 none) 1) 0x02#8 qy ∧ ¬ Spec.isTag (holding [(1, qx)] 4 none).pktag ∧
    signatureHolds ⟨qx, qy, 1⟩ digest sigR sigS = true ∧ signatureHolds ⟨qx, qy, 1⟩ digest sigR 1 = false := by
  unfold Spec.isTag Spec.isRoot; decide +kernel

/-- A pair of coordinates with y^2 = x^3 - 3 x + b is a point of Mathlib's curve. -/
theorem nonsingular_of [Fact (Nat.Prime Config.p)] {x y : ZMod Config.p}
    (h : y ^ 2 = x ^ 3 - 3 * x + (Config.b : ℕ)) : Spec.curve.Nonsingular x y := by
  have hd : Spec.curve.Δ ≠ 0 := by
    have e : Spec.curve.Δ = ((-16 * (4 * (-3) ^ 3 + 27 * (Config.b : ℤ) ^ 2) : ℤ) : ZMod Config.p) := by
      simp [WeierstrassCurve.Δ, WeierstrassCurve.b₂, WeierstrassCurve.b₄, WeierstrassCurve.b₆, WeierstrassCurve.b₈,
        Spec.curve]
      ring
    rw [e, ne_eq, ZMod.intCast_zmod_eq_zero_iff_dvd]
    decide
  rw [← WeierstrassCurve.Affine.equation_iff_nonsingular_of_Δ_ne_zero hd, WeierstrassCurve.Affine.equation_iff]
  simp only [Spec.curve]
  linear_combination h

theorem g_on_curve : (Config.gy : ZMod Config.p) ^ 2 = (Config.gx : ZMod Config.p) ^ 3 - 3 * Config.gx + (Config.b : ℕ) := by
  have h : ((Config.gy : ℤ) ^ 2 - ((Config.gx : ℤ) ^ 3 - 3 * Config.gx + Config.b)) % (Config.p : ℤ) = 0 := by
    decide +kernel
  have h := (Int.dvd_iff_emod_eq_zero).2 h
  rw [← ZMod.intCast_zmod_eq_zero_iff_dvd] at h
  push_cast at h
  linear_combination h

/-- The triple of G stands for a point that is not the identity; so do the hypotheses of the three group statements
hold together, with p prime. -/
theorem witness_group :
    ∃ (_ : Fact (Nat.Prime Config.p)) (P : Spec.curve.Point),
      inRange Config.g = true ∧ Spec.standsFor Config.g P ∧ P ≠ 0 := by
  have hp : Fact (Nat.Prime Config.p) := ⟨p_prime⟩
  refine ⟨hp, .some Config.gx Config.gy (nonsingular_of g_on_curve), by decide, ?_,
    WeierstrassCurve.Affine.Point.some_ne_zero _⟩
  refine ⟨by decide, ?_, ?_⟩ <;> simp [Config.g]

theorem witness_DoublingIsGroupDoubling : ∃ (_ : Fact (Nat.Prime Config.p)) (t : Triple) (P : Spec.curve.Point),
    inRange t = true ∧ Spec.standsFor t P ∧ P ≠ 0 := by
  obtain ⟨hp, P, h1, h2, h3⟩ := witness_group
  exact ⟨hp, Config.g, P, h1, h2, h3⟩

theorem witness_AdditionIsGroupAddition : ∃ (_ : Fact (Nat.Prime Config.p)) (t1 t2 : Triple) (P Q : Spec.curve.Point),
    inRange t1 = true ∧ inRange t2 = true ∧ Spec.standsFor t1 P ∧ Spec.standsFor t2 Q ∧ P ≠ 0 := by
  obtain ⟨hp, P, h1, h2, h3⟩ := witness_group
  exact ⟨hp, Config.g, Config.g, P, P, h1, h1, h2, h2, h3⟩

theorem witness_ScalarMulIsGroupMultiple : ∃ (_ : Fact (Nat.Prime Config.p)) (k : Nat) (t : Triple) (P : Spec.curve.Point),
    k < 2 ^ 256 ∧ inRange t = true ∧ Spec.standsFor t P ∧ P ≠ 0 := by
  obtain ⟨hp, P, h1, h2, h3⟩ := witness_group
  exact ⟨hp, 2 ^ 256 - 1, Config.g, P, by decide, h1, h2, h3⟩

theorem witness_CurveGroupHasOrderN : Nat.Prime Config.p ∧ 0 < 1 ∧ 1 < Config.n ∧ Config.n - 1 < Config.n :=
  ⟨p_prime, by decide, by decide, by decide⟩

/-- V45a: l = 2 takes G to the triple Gs; the limits of l. -/
theorem witness_AffineFormIgnoresRepresentation :
    inRange ⟨Config.gx, Config.gy, 1⟩ = true ∧ 1 ≤ 1 ∧ 1 < Config.p ∧ Config.p - 1 < Config.p ∧
    (fmul (fsqr 2) Config.gx, fmul (fmul (fsqr 2) 2) Config.gy, fmul 2 1) = gs := by decide +kernel

theorem witness_PointEngineLaws :
    (⟨3, 4, 0⟩ : Triple).z = 0 ∧ Config.g.z ≠ 0 ∧ Triple.identity.z = 0 := by decide

theorem witness_FieldLaws : Config.p - 1 < Config.p ∧ 0 < Config.p ∧ Config.p - 1 ≠ 0 := by decide

theorem witness_ScalarLaws : Config.n - 1 < Config.n ∧ 0 < Config.n ∧ Config.n - 1 ≠ 0 := by decide

/-- PENC of Gs, then PDEC from the state it leaves. -/
theorem witness_EncodeThenDecodeKey :
    let s := running 0x27600000 (at3 0 gs)
    let t := Spec.ok s (Spec.put s.regs 6 Config.gx) 0x03#8 false false false
    let h := holding (at3 0 gs) 0 none
    let h' := holding [(6, Config.gx)] 3 none
    let s' : State := { State.reset with hidden := some h' }
    s.hidden = some h ∧ s'.hidden = some h' ∧ Spec.inField (Spec.srcPoint h 0) ∧ (Spec.srcPoint h 0).z ≠ 0 ∧
    Spec.equation (Spec.srcPoint h 0) ∧ exec (.penc 6 0) s = .next t ∧ h'.pktag = t.pktag ∧
    h'.regs[6] = t.regs[6] := by
  refine ⟨by decide +kernel, by decide +kernel, ?_, by decide +kernel, ?_, eq_of_isNext (by decide +kernel),
    by decide +kernel, by decide +kernel⟩
  · unfold Spec.inField; decide +kernel
  · unfold Spec.equation; decide +kernel

/-- V60, then VERIFY of it as V64. -/
theorem witness_SignThenVerifyAccepts :
    let s := running 0x32402000 [(0, 0xab73), (2, digest)] 0 (drew 0x1e98)
    let t := Spec.ok s (Spec.putPair s.regs 4 sigR sigS) 0x00#8 false false false
    let h := holding [(0, 0xab73), (2, digest)] 0 (drew 0x1e98)
    let h' := holding [(1, qx), (2, digest), (4, sigR), (5, sigS)] 2 none
    s.hidden = some h ∧ exec (.sign 4 0 2) s = .next t ∧ t.hidden = none ∧ t.outcome = 0 ∧
    Spec.src h' 1 = (aff (scalarMul (Spec.src h 0) Config.g)).x ∧
    h'.pktag = tagOf (aff (scalarMul (Spec.src h 0) Config.g)).y ∧ Spec.src h' 2 = Spec.src h 2 ∧
    h'.regs[4]? = t.regs[4]? ∧ h'.regs[5]? = t.regs[5]? :=
  ⟨by decide +kernel, eq_of_isNext (by decide +kernel), by decide +kernel, by decide +kernel, by decide +kernel,
   by decide +kernel, by decide +kernel, by decide +kernel, by decide +kernel⟩

/-- V64 and V65e. -/
theorem witness_VerifyAcceptsTwinSignature :
    let s := running 0x33012400 [(1, qx), (2, digest), (4, sigR), (5, sigS)] 2
    let h := holding [(1, qx), (2, digest), (4, sigR), (5, sigS)] 2 none
    let h' := holding [(1, qx), (2, digest), (4, sigR), (5, Config.n - sigS)] 2 none
    s.hidden = some h ∧ h'.pktag = h.pktag ∧ h'.regs = Spec.put h.regs 5 (Config.n - Spec.src h 5) ∧
    (5#4 ≠ 1#4 ∧ 5#4 ≠ 2#4) ∧ exec (.verify 1 2 4) s = .next (Spec.ok s s.regs s.pktag false false true) :=
  ⟨by decide +kernel, by decide +kernel, by decide +kernel, by decide +kernel, eq_of_isNext (by decide +kernel)⟩

/-- A core in RUN on a decoding word, with the core's turn next and with an empty agenda; an idle core with either; a
transaction of the host, read and write, in RUN and idle. -/
theorem witness_StepRunsDecodedCommand :
    let s := running 0x03201000 []
    s.busy = true ∧ s.rngwait = false ∧ decode s.cmd = .ok (.fmul 2 0 1) ∧ s.agenda = [] ∧
    ({ s with agenda := [.core, .core] } : State).agenda = .core :: [.core] ∧
    State.reset.busy = false ∧ State.reset.agenda = [] ∧
    ({ State.reset with agenda := [.core] } : State).agenda = .core :: [] ∧
    ({ s with agenda := [.host (.read 0x3FC#10 4)] } : State).agenda = .host (.read 0x3FC#10 4) :: [] ∧
    ({ State.reset with agenda := [.host (.write 0x3FC#10 4 5#32)] } : State).agenda =
      .host (.write 0x3FC#10 4 5#32) :: [] := by decide +kernel

theorem witness_IllegalWordCompletes :
    let s : State := { State.reset with agenda := [.host (.write 0x004#10 4 0xFFFFFFFF#32), .core] }
    decode 0xFFFFFFFF#32 = .error .zeroByte ∧ s.busy = false ∧
    s.agenda = .host (.write 0x004#10 4 0xFFFFFFFF#32) :: .core :: [] := by decide +kernel

theorem witness_AcceptanceStep :
    let s : State := { State.reset with done := true, outcome := 2, agenda := [.host (.write 0x004#10 4 0x01201000#32)] }
    s.busy = false ∧ s.agenda = .host (.write 0x004#10 4 0x01201000#32) :: [] := by decide +kernel

/-- A failing command: V20e. -/
theorem witness_FailingCommandWritesNothing :
    let s := running 0x01201000 [(0, Config.p)]
    exec (.fadd 2 0 1) s = .next (Spec.fails s 2) ∧ (Spec.fails s 2).hidden = none ∧ (Spec.fails s 2).outcome ≠ 0 :=
  ⟨eq_of_isNext (by decide +kernel), by decide +kernel, by decide +kernel⟩

/-- A command that completes (V42e) and one that waits. -/
theorem witness_CommandFrame :
    Instr.wellFormed (.padd 6 0 3) = true ∧ Instr.wellFormed (.nrand 3) = true ∧
    exec (.padd 6 0 3) (running 0x22603000 (at3 0 gPt)) =
      .next (Spec.ok (running 0x22603000 (at3 0 gPt))
        (Spec.putPoint (regsOf (at3 0 gPt)) 6 Config.gx Config.gy 1) 0 false false false) ∧
    exec (.nrand 3) (running 0x17300000 []) = .next (running 0x17300000 []).requestDraw :=
  ⟨by decide, by decide, eq_of_isNext (by decide +kernel), eq_of_isNext (by decide +kernel)⟩

/-- A step that changes the phase, and one that does not. -/
theorem witness_PhaseTransitions :
    (∃ t, step (running 0x00000000 []) = .next t ∧ t.phase = .idle) ∧
    (∃ t, step (running 0x17300000 []) = .next t ∧ t.phase = .wait) ∧
    (∃ t, step State.reset = .next t ∧ t.phase = .idle) := by
  refine ⟨⟨_, rfl, by decide +kernel⟩, ⟨_, rfl, by decide +kernel⟩, ⟨_, rfl, by decide +kernel⟩⟩

/-- The invariant in a state that runs a command. -/
theorem witness_StepKeepsInvariant :
    (State.accept State.reset 0x17300000#32).Inv ∧ ∃ t, step (State.accept State.reset 0x17300000#32) = .next t := by
  refine ⟨?_, _, rfl⟩
  constructor <;> simp [State.reset]

/-- A surrounding that keeps the duty of R261, and one that breaks it. -/
theorem witness_RunsNeverStop :
    ({ State.reset with agenda := [.reset none, .core] } : State).agendaKeepsDuty ∧
    step { State.reset with agenda := [.reset (some (.read 0 4))] } = .refused .hostDuringReset := by
  refine ⟨?_, rfl⟩
  intro t
  simp

/-- Both resets from a state that runs and waits. -/
theorem witness_HardAndSoftReset :
    let s := { running 0x17300000 [(3, 0x55)] with rngwait := true, agenda := [.reset none] }
    let s' := { s with agenda := [.host (.write 0x010#10 4 0x2#32)] }
    s.agenda = .reset none :: [] ∧ s'.agenda = .host (.write 0x010#10 4 0x2#32) :: [] ∧ (0x2#32).getLsbD 1 = true := by
  decide +kernel

/-- Each clause: a wrong size, a misaligned offset, the first and last unmapped offset. -/
theorem witness_BadTransactionsChangeNothing :
    (8 ≠ 4 ∨ (0 : Offset).toNat % 4 ≠ 0) ∧ (0x3FF#10).toNat % 4 ≠ 0 ∧ (0x01C ≤ (0x01C#10).toNat ∧ (0x01C#10).toNat < 0x200) ∧
    (0x01C ≤ (0x1FC#10).toNat ∧ (0x1FC#10).toNat < 0x200) := by decide

/-- Idle and busy, with the first and the last word of the registers. -/
theorem witness_MemReadTable :
    State.reset.busy = false ∧ (running 0 []).busy = true ∧ (0 < 16 ∧ 0 < 8 ∧ 15 < 16 ∧ 7 < 8) ∧
    BitVec.ofNat 10 (0x200 + 32 * 15 + 4 * 7) = 0x3FC#10 := by decide +kernel

theorem witness_ControlWriteTable :
    (0xFFFFFFFD#32).getLsbD 1 = false ∧ State.reset.busy = false := by decide +kernel

theorem witness_BusyWritesDropped :
    (running 0 []).busy = true ∧ ((0x200#10).toNat % 4 = 0 ∧ 0x200 ≤ (0x200#10).toNat) ∧
    ((0x3FC#10).toNat % 4 = 0 ∧ 0x200 ≤ (0x3FC#10).toNat) := by decide +kernel

theorem witness_OperandWordWriteThenRead :
    State.reset.busy = false ∧ ((0, 0) : Nat × Nat) ≠ (15, 7) ∧ ((3, 4) : Nat × Nat) ≠ (3, 5) := by decide +kernel

theorem witness_WindowIsBigEndian : State.reset.busy = false ∧ 15 < 16 ∧ 7 < 8 ∧ 3 < 4 := by decide +kernel

theorem witness_InterruptOutput :
    (∃ t, exec .nop (running 0 []) = .next t ∧ t.hidden = none) ∧ State.reset.busy = false ∧
    (0x2#32).getLsbD 1 = true := ⟨⟨_, rfl, rfl⟩, by decide +kernel, by decide⟩

/-- Each clause of the handshake: a failure with both asserted, a value, no answer, a turn of the waiting core; no
request in RUN, and an idle core that a late answer reaches after a reset. -/
theorem witness_EntropyHandshake :
    let s := { running 0x17300000 [] with rngwait := true, agenda := [.entropy true true 7] }
    let v := { s with agenda := [.entropy true false 7] }
    let late : State := { State.reset with agenda := [.entropy true false 7] }
    s.hidden = some (holding [] 0 none) ∧ s.rngwait = true ∧ s.busy = true ∧ s.agenda = .entropy true true 7 :: [] ∧
    v.hidden = some (holding [] 0 none) ∧ v.rngwait = true ∧ v.agenda = .entropy true false 7 :: [] ∧
    ({ s with agenda := [.entropy false false 7] } : State).agenda = .entropy false false 7 :: [] ∧
    ({ s with agenda := [.core] } : State).agenda = .core :: [] ∧ ({ s with agenda := [] } : State).agenda = [] ∧
    (running 0x17300000 []).rngwait = false ∧ late.hidden = none ∧ late.rngwait = false ∧
    late.agenda = .entropy true false 7 :: [] := by decide +kernel

theorem witness_StickyBitsStay :
    let s : State := { State.reset with fsticky := 0x13E#32, agenda := [.host (.write 0x014#10 4 0x120#32)] }
    ∃ t, step s = .next t ∧ s.fsticky.getLsbD 8 = true ∧ t.fsticky.getLsbD 8 = false ∧
      s.fsticky.getLsbD 5 = true ∧ t.fsticky.getLsbD 5 = false ∧ t.fsticky.getLsbD 1 = true := by
  exact ⟨_, rfl, by decide +kernel⟩

/-- Two cores that hold the same sampled sources and differ in a register. -/
theorem witness_ResultDependsOnSampledStateOnly :
    let s := running 0x01201000 [(0, 1)]
    let s' := { s with regs := regsOf [(7, 9)], ie := true }
    Instr.wellFormed (.fadd 2 0 1) = true ∧ s.hidden = some (holding [(0, 1)] 0 none) ∧
    s'.hidden = some (holding [(0, 1)] 0 none) ∧ (∃ t, exec (.fadd 2 0 1) s = .next t) ∧
    ∃ t, exec (.fadd 2 0 1) s' = .next t :=
  ⟨by decide +kernel, by decide +kernel, by decide +kernel, ⟨_, rfl⟩, ⟨_, rfl⟩⟩

end Sys2Proof.Tests
end

/-! SUPPORT. The curve engine computes in Mathlib's group of the curve: `dbl`, `add` and `scalarMul` stand for the sum
and the multiple (R152 to R158). The slope of a line is the engine's M or R over its Z. -/

namespace Sys2Proof.Machine

open WeierstrassCurve.Affine

section CurvePoints

variable [Fact (Nat.Prime Config.p)]

theorem standsFor_zero (t : Triple) : Spec.standsFor t 0 ↔ t.z = 0 := Iff.rfl

theorem standsFor_some (t : Triple) {x y : ZMod Config.p} (h : Spec.curve.Nonsingular x y) :
    Spec.standsFor t (.some x y h) ↔
      t.z ≠ 0 ∧ x * (t.z : ZMod Config.p) ^ 2 = t.x ∧ y * (t.z : ZMod Config.p) ^ 3 = t.y := Iff.rfl

theorem eq_zero_of_standsFor {t : Triple} {P : Spec.curve.Point} (h : Spec.standsFor t P) (hz : t.z = 0) : P = 0 := by
  cases P with
  | zero => rfl
  | some x y hP => exact absurd hz ((standsFor_some t hP).1 h).1

theorem cast_z_ne_zero {t : Triple} (ht : inRange t = true) (hz : t.z ≠ 0) : (t.z : ZMod Config.p) ≠ 0 :=
  mt (cast_eq_zero ((inRange_iff t).1 ht).2.2).1 hz

theorem standsFor_identity : Spec.standsFor Triple.identity 0 := (standsFor_zero _).2 rfl

theorem curve_equation_iff (x y : ZMod Config.p) :
    Spec.curve.Equation x y ↔ y ^ 2 = x ^ 3 - 3 * x + (Config.b : ℕ) := by
  rw [equation_iff]
  simp only [Spec.curve, zero_mul, add_zero, neg_mul, sub_eq_add_neg]

theorem curve_negY (x y : ZMod Config.p) : Spec.curve.negY x y = -y := by simp [negY, Spec.curve]

theorem curve_addX (x₁ x₂ l : ZMod Config.p) : Spec.curve.addX x₁ x₂ l = l ^ 2 - x₁ - x₂ := by
  simp [addX, Spec.curve]

theorem curve_addY (x₁ x₂ y₁ l : ZMod Config.p) :
    Spec.curve.addY x₁ x₂ y₁ l = l * (x₁ - Spec.curve.addX x₁ x₂ l) - y₁ := by
  rw [addY, curve_negY, negAddY]
  ring

theorem two_ne_zero_mod_p : (2 : ZMod Config.p) ≠ 0 := fun h =>
  absurd ((cast_eq_zero (a := 2) (by decide)).1 (by simpa using h)) (by decide)

/-- No point of the curve has y = 0: its cubic has no root. -/
theorem y_ne_zero_of_equation {x y : ZMod Config.p} (h : Spec.curve.Equation x y) : y ≠ 0 := by
  rintro rfl
  rw [curve_equation_iff] at h
  exact cubic_ne_zero x (by rw [← h]; ring)

theorem y_ne_neg_of_equation {x y : ZMod Config.p} (h : Spec.curve.Equation x y) : y ≠ -y := fun hy =>
  mul_ne_zero two_ne_zero_mod_p (y_ne_zero_of_equation h) (by linear_combination hy)

theorem nonsingular_of_equation {x y : ZMod Config.p} (h : Spec.curve.Equation x y) : Spec.curve.Nonsingular x y :=
  (nonsingular_iff' ..).2 ⟨h, .inr (by
    simpa [Spec.curve] using ⟨two_ne_zero_mod_p, y_ne_zero_of_equation h⟩)⟩

/-- The slope of the tangent, for a = -3. -/
theorem curve_slope_self {x y : ZMod Config.p} (h : Spec.curve.Equation x y) :
    Spec.curve.slope x x y y * (2 * y) = 3 * x ^ 2 - 3 := by
  have hy : y ≠ Spec.curve.negY x y := by rw [curve_negY]; exact y_ne_neg_of_equation h
  rw [slope_of_Y_ne rfl hy, curve_negY, show y - -y = 2 * y by ring,
    div_mul_cancel₀ _ (mul_ne_zero two_ne_zero_mod_p (y_ne_zero_of_equation h))]
  simp [Spec.curve, sub_eq_add_neg]

theorem curve_slope_secant {x₁ x₂ : ZMod Config.p} (y₁ y₂ : ZMod Config.p) (hx : x₁ ≠ x₂) :
    Spec.curve.slope x₁ x₂ y₁ y₂ * (x₂ - x₁) = y₂ - y₁ := by
  rw [slope_of_X_ne hx, div_mul_eq_mul_div, div_eq_iff (sub_ne_zero.2 hx)]
  ring

end CurvePoints

section GroupLaw

variable [Fact (Nat.Prime Config.p)]

/-- R153: `Dbl` stands for P + P. -/
theorem standsFor_dbl {t : Triple} {P : Spec.curve.Point} (ht : inRange t = true) (h : Spec.standsFor t P) :
    Spec.standsFor (dbl t) (P + P) := by
  cases P with
  | zero =>
    have hz : t.z = 0 := h
    rw [dbl, if_pos (.inl hz)]
    exact standsFor_identity
  | some x y hP =>
    obtain ⟨hz, hx, hy⟩ := (standsFor_some t hP).1 h
    have hz' := cast_z_ne_zero ht hz
    have hy0 := y_ne_zero_of_equation hP.1
    have hty : (t.y : ZMod Config.p) ≠ 0 := hy ▸ mul_ne_zero hy0 (pow_ne_zero 3 hz')
    have hslope := curve_slope_self hP.1
    have hneg : y ≠ Spec.curve.negY x y := by rw [curve_negY]; exact y_ne_neg_of_equation hP.1
    rw [Point.add_self_of_Y_ne hneg, standsFor_some, dbl,
      if_neg (not_or.2 ⟨hz, fun h0 => hty (by rw [h0, Nat.cast_zero])⟩), curve_addY, curve_addX]
    generalize Spec.curve.slope x x y y = l at hslope
    dsimp only
    rw [ne_eq, ← cast_eq_zero (fmul_lt _ _)]
    simp only [cast_fmul, cast_fsqr, cast_fadd, cast_fsub _ (fmul_lt _ _), cast_fsub _ (fsqr_lt _),
      cast_fsub _ (fsub_lt _ _)]
    push_cast
    rw [← hx, ← hy]
    generalize (t.z : ZMod Config.p) = Z at hz'
    have hm : (3 : ZMod Config.p) * ((x * Z ^ 2 - Z ^ 2) * (x * Z ^ 2 + Z ^ 2)) = l * (2 * y * Z ^ 4) := by
      linear_combination (-Z ^ 4) * hslope
    rw [hm]
    refine ⟨mul_ne_zero two_ne_zero_mod_p (mul_ne_zero (mul_ne_zero hy0 (pow_ne_zero 3 hz')) hz'), ?_, ?_⟩ <;> ring

/-- U2 - U1 of `Add` for triples of (x₁, y₁) and (x₂, y₂). -/
theorem cast_addH {t u : Triple} {x₁ x₂ : ZMod Config.p} (h₁ : x₁ * (t.z : ZMod Config.p) ^ 2 = t.x)
    (h₂ : x₂ * (u.z : ZMod Config.p) ^ 2 = u.x) :
    ((fsub (fmul u.x (fsqr t.z)) (fmul t.x (fsqr u.z)) : ℕ) : ZMod Config.p) = (x₂ - x₁) * (t.z * u.z) ^ 2 := by
  simp only [cast_fsub _ (fmul_lt _ _), cast_fmul, cast_fsqr, ← h₁, ← h₂]
  ring

/-- S2 - S1 of `Add` for triples of (x₁, y₁) and (x₂, y₂). -/
theorem cast_addR {t u : Triple} {y₁ y₂ : ZMod Config.p} (h₁ : y₁ * (t.z : ZMod Config.p) ^ 3 = t.y)
    (h₂ : y₂ * (u.z : ZMod Config.p) ^ 3 = u.y) :
    ((fsub (fmul u.y (fmul (fsqr t.z) t.z)) (fmul t.y (fmul (fsqr u.z) u.z)) : ℕ) : ZMod Config.p) =
      (y₂ - y₁) * (t.z * u.z) ^ 3 := by
  simp only [cast_fsub _ (fmul_lt _ _), cast_fmul, cast_fsqr, ← h₁, ← h₂]
  ring

/-- The general case of `Add`: the chord of slope l through (x₁, y₁), with Z = Z1 Z2, H = (x₂ - x₁) Z^2 and
R = l (x₂ - x₁) Z^3. -/
theorem standsFor_addGeneral {u1 s1 h r z1 z2 : Nat} {x₁ x₂ y₁ l Z : ZMod Config.p}
    (hZ : (z1 : ZMod Config.p) * z2 = Z) (hZ0 : Z ≠ 0) (hx : x₁ ≠ x₂) (hu : (u1 : ZMod Config.p) = x₁ * Z ^ 2)
    (hs : (s1 : ZMod Config.p) = y₁ * Z ^ 3) (hh : (h : ZMod Config.p) = (x₂ - x₁) * Z ^ 2)
    (hrr : (r : ZMod Config.p) = l * (x₂ - x₁) * Z ^ 3)
    (hns : Spec.curve.Nonsingular (Spec.curve.addX x₁ x₂ l) (Spec.curve.addY x₁ x₂ y₁ l)) :
    Spec.standsFor (addGeneral u1 s1 h r z1 z2) (.some _ _ hns) := by
  rw [standsFor_some, curve_addY, curve_addX, addGeneral]
  dsimp only
  rw [ne_eq, ← cast_eq_zero (fmul_lt _ _)]
  simp only [cast_fmul, cast_fsqr, cast_fsub _ (fmul_lt _ _), cast_fsub _ (fsub_lt _ _), hZ, hu, hs, hh, hrr]
  push_cast
  refine ⟨mul_ne_zero (mul_ne_zero (sub_ne_zero.2 hx.symm) (pow_ne_zero 2 hZ0)) hZ0, ?_, ?_⟩ <;> ring

/-- `Add` of two points with coordinates: H = 0 says x₁ = x₂, R = 0 says y₁ = y₂, and so its branches are the tangent,
the vertical line and the chord. -/
theorem standsFor_add_some {t u : Triple} {x₁ y₁ x₂ y₂ : ZMod Config.p} {hP : Spec.curve.Nonsingular x₁ y₁}
    {hQ : Spec.curve.Nonsingular x₂ y₂} (ht : inRange t = true) (hu : inRange u = true)
    (hPt : Spec.standsFor t (.some x₁ y₁ hP)) (hQu : Spec.standsFor u (.some x₂ y₂ hQ)) :
    Spec.standsFor (add t u) (.some x₁ y₁ hP + .some x₂ y₂ hQ) := by
  obtain ⟨htz, hx₁, hy₁⟩ := (standsFor_some t hP).1 hPt
  obtain ⟨huz, hx₂, hy₂⟩ := (standsFor_some u hQ).1 hQu
  have hZ := mul_ne_zero (cast_z_ne_zero ht htz) (cast_z_ne_zero hu huz)
  have hH := cast_addH hx₁ hx₂
  have hR := cast_addR hy₁ hy₂
  have hH0 := cast_eq_zero (fsub_lt (fmul u.x (fsqr t.z)) (fmul t.x (fsqr u.z)))
  have hR0 := cast_eq_zero (fsub_lt (fmul u.y (fmul (fsqr t.z) t.z)) (fmul t.y (fmul (fsqr u.z) u.z)))
  rw [hH, mul_eq_zero, or_iff_left (pow_ne_zero 2 hZ), sub_eq_zero] at hH0
  rw [hR, mul_eq_zero, or_iff_left (pow_ne_zero 3 hZ), sub_eq_zero] at hR0
  rw [add, if_neg (htz ·.1), if_neg htz, if_neg huz]
  dsimp only
  by_cases hx : x₂ = x₁
  · subst hx
    by_cases hy : y₂ = y₁
    · subst hy
      rw [if_pos ⟨hH0.1 rfl, hR0.1 rfl⟩]
      exact standsFor_dbl ht hPt
    · have hneg : y₁ = Spec.curve.negY x₂ y₂ := (Y_eq_of_X_eq hP.1 hQ.1 rfl).resolve_left (Ne.symm hy)
      rw [if_neg (hy <| hR0.2 ·.2), if_pos (hH0.1 rfl), Point.add_of_Y_eq rfl hneg]
      exact standsFor_identity
  · rw [if_neg (hx <| hH0.2 ·.1), if_neg (mt hH0.2 hx), Point.add_of_X_ne (Ne.symm hx)]
    refine standsFor_addGeneral rfl hZ (Ne.symm hx) ?_ ?_ hH ?_ _
    · rw [cast_fmul, cast_fsqr, ← hx₁]; ring
    · rw [cast_fmul, cast_fmul, cast_fsqr, ← hy₁]; ring
    · rw [hR, curve_slope_secant y₁ y₂ (Ne.symm hx)]

/-- R153: `Add` stands for P + Q. -/
theorem standsFor_add {t u : Triple} {P Q : Spec.curve.Point} (ht : inRange t = true) (hu : inRange u = true)
    (hP : Spec.standsFor t P) (hQ : Spec.standsFor u Q) : Spec.standsFor (add t u) (P + Q) := by
  cases P with
  | zero =>
    have htz : t.z = 0 := hP
    rw [← Point.zero_def, zero_add, add]
    by_cases huz : u.z = 0
    · rw [if_pos ⟨htz, huz⟩, eq_zero_of_standsFor hQ huz]
      exact standsFor_identity
    · rwa [if_neg (huz ·.2), if_pos htz]
  | some x₁ y₁ hP' =>
    cases Q with
    | zero =>
      have htz := ((standsFor_some t hP').1 hP).1
      have huz : u.z = 0 := hQ
      rwa [← Point.zero_def, add_zero, add, if_neg (htz ·.1), if_neg htz, if_pos huz]
    | some x₂ y₂ hQ' => exact standsFor_add_some ht hu hP hQ

/-- The loop's invariant: the accumulator holds the multiple by the bits of k above the next one. -/
theorem standsFor_scalarMulFrom {t : Triple} {P : Spec.curve.Point} (k : Nat) (ht : inRange t = true)
    (h : Spec.standsFor t P) : ∀ (i : Nat) (acc : Triple), inRange acc = true →
    Spec.standsFor acc ((k / 2 ^ i) • P) → Spec.standsFor (scalarMulFrom k t i acc) (k • P)
  | 0, acc, _, hacc => by simpa [scalarMulFrom] using hacc
  | i + 1, acc, hr, hacc => by
    have hd := standsFor_dbl hr hacc
    rw [← two_nsmul, ← mul_nsmul'] at hd
    have hdiv : k / 2 ^ (i + 1) = k / 2 ^ i / 2 := by rw [pow_succ, Nat.div_div_eq_div_mul]
    rw [hdiv] at hd
    unfold scalarMulFrom
    apply standsFor_scalarMulFrom k ht h i
    · split
      · exact inRange_add (inRange_dbl acc) ht
      · exact inRange_dbl acc
    · rw [Nat.testBit_eq_decide_div_mod_eq]
      by_cases hbit : k / 2 ^ i % 2 = 1
      · have hs := standsFor_add (inRange_dbl acc) ht hd h
        rw [← succ_nsmul, show 2 * (k / 2 ^ i / 2) + 1 = k / 2 ^ i by omega] at hs
        simpa [hbit] using hs
      · rw [show 2 * (k / 2 ^ i / 2) = k / 2 ^ i by omega] at hd
        simpa [hbit] using hd

/-- R158: `ScalarMul` stands for k P, for every 256-bit k. -/
theorem standsFor_scalarMul {k : Nat} {t : Triple} {P : Spec.curve.Point} (hk : k < 2 ^ 256) (ht : inRange t = true)
    (h : Spec.standsFor t P) : Spec.standsFor (scalarMul k t) (k • P) :=
  standsFor_scalarMulFrom k ht h 256 _ (by decide) (by
    rw [Nat.div_eq_of_lt hk, zero_nsmul]
    exact standsFor_identity)

theorem nsmul_eq_zero_of_scalarMul {k : Nat} {t : Triple} {P : Spec.curve.Point} (hk : k < 2 ^ 256)
    (ht : inRange t = true) (h : Spec.standsFor t P) (hz : (scalarMul k t).z = 0) : k • P = 0 :=
  eq_zero_of_standsFor (standsFor_scalarMul hk ht h) hz

end GroupLaw

end Sys2Proof.Machine

/-! SUPPORT. The order of the curve's group (R10, R15): the base point's order, the bound on the number of points, and
no point of order 2. -/

namespace Sys2Proof.Machine

open WeierstrassCurve.Affine

theorem satisfiesEquation_g : satisfiesEquation Config.g = true := by decide +kernel

theorem scalarMul_n_g : (scalarMul Config.n Config.g).z = 0 := by decide +kernel

section Order

variable [Fact (Nat.Prime Config.p)]

/-- The equation of R153 in `ZMod p`. -/
theorem cast_satisfiesEquation {t : Triple} (h : satisfiesEquation t = true) :
    (t.y : ZMod Config.p) ^ 2 = (t.x : ZMod Config.p) ^ 3 - 3 * t.x * (t.z : ZMod Config.p) ^ 4 +
      (Config.b : ℕ) * (t.z : ZMod Config.p) ^ 6 := by
  have hcast := congrArg (Nat.cast (R := ZMod Config.p)) (beq_iff_eq.1 h)
  simp only [cast_fadd, cast_fsub _ (fmul_lt _ _), cast_fmul, cast_fsqr] at hcast
  push_cast at hcast
  linear_combination hcast

/-- The base point of Mathlib's curve. -/
theorem exists_standsFor_g : ∃ P : Spec.curve.Point, Spec.standsFor Config.g P ∧ P ≠ 0 := by
  have h : Spec.curve.Equation (Config.gx : ZMod Config.p) (Config.gy : ℕ) := by
    have := cast_satisfiesEquation satisfiesEquation_g
    rw [curve_equation_iff]
    simpa [Config.g] using this
  refine ⟨.some _ _ (nonsingular_of_equation h), ⟨by decide, ?_, ?_⟩, Point.some_ne_zero _⟩ <;> simp [Config.g]

/-- n is prime and kills G, so a point that G stands for has order n. -/
theorem addOrderOf_of_standsFor_g {P : Spec.curve.Point} (h : Spec.standsFor Config.g P) (hP : P ≠ 0) :
    addOrderOf P = Config.n := by
  have : Fact (Nat.Prime Config.n) := ⟨n_prime⟩
  exact addOrderOf_eq_prime (nsmul_eq_zero_of_scalarMul n_lt_two_pow inRange_g h scalarMul_n_g) hP

theorem scalarMul_g_ne_zero {k : Nat} (h0 : 0 < k) (hk : k < Config.n) : (scalarMul k Config.g).z ≠ 0 := by
  obtain ⟨P, h, hP⟩ := exists_standsFor_g
  intro hz
  have hkP := nsmul_eq_zero_of_scalarMul (hk.trans n_lt_two_pow) inRange_g h hz
  have hle := Nat.le_of_dvd h0 (addOrderOf_dvd_of_nsmul_eq_zero hkP)
  rw [addOrderOf_of_standsFor_g h hP] at hle
  exact absurd hk hle.not_gt

/-- A point's x-coordinate; none for the point at infinity. -/
def xCoordinate : Spec.curve.Point → Option (ZMod Config.p)
  | .zero => none
  | .some x _ _ => some x

theorem eq_or_eq_neg_of_xCoordinate {P Q : Spec.curve.Point} (h : xCoordinate P = xCoordinate Q) : P = Q ∨ P = -Q := by
  match P, Q, h with
  | .zero, .zero, _ => exact .inl rfl
  | .some .., .some .., h => exact Point.X_eq_iff.1 (Option.some.inj h)

theorem finite_points : Finite Spec.curve.Point :=
  have : Finite (WithZero {xy : ZMod Config.p × ZMod Config.p // Spec.curve.Nonsingular xy.1 xy.2}) :=
    inferInstanceAs (Finite (Option _))
  Finite.of_equiv _ (nonsingularPointEquiv Spec.curve).symm

/-- At most two points share an x-coordinate. -/
theorem card_points_le : Nat.card Spec.curve.Point ≤ 2 * (Config.p + 1) := by
  classical
  have := finite_points
  have := Fintype.ofFinite Spec.curve.Point
  have hfibre : ∀ c ∈ (Finset.univ : Finset (Option (ZMod Config.p))),
      (Finset.univ.filter fun P : Spec.curve.Point => xCoordinate P = c).card ≤ 2 := by
    intro c _
    obtain hempty | ⟨Q, hQ⟩ := (Finset.univ.filter fun P => xCoordinate P = c).eq_empty_or_nonempty
    · simp [hempty]
    · refine le_trans (Finset.card_le_card (t := {Q, -Q}) fun P hP => ?_) Finset.card_le_two
      rw [Finset.mem_filter] at hP hQ
      simpa using eq_or_eq_neg_of_xCoordinate (hP.2.trans hQ.2.symm)
  have h := Finset.card_le_mul_card_image_of_maps_to (fun P _ => Finset.mem_univ (xCoordinate P)) 2 hfibre
  simpa [Nat.card_eq_fintype_card, ZMod.card] using h

/-- A point of order 2 would have y = 0. -/
theorem add_self_ne_zero {P : Spec.curve.Point} (hP : P ≠ 0) : P + P ≠ 0 := by
  cases P with
  | zero => exact absurd rfl hP
  | some x y h =>
    rw [Point.add_self_of_Y_ne (by rw [curve_negY]; exact y_ne_neg_of_equation h.1)]
    exact Point.some_ne_zero _

theorem not_two_dvd_card_points : ¬ 2 ∣ Nat.card Spec.curve.Point := by
  intro h
  have := finite_points
  have : Fact (Nat.Prime 2) := ⟨Nat.prime_two⟩
  obtain ⟨P, hP⟩ := exists_prime_addOrderOf_dvd_card' 2 h
  have hP0 : P ≠ 0 := fun h0 => by simp [h0] at hP
  exact add_self_ne_zero hP0 (by rw [← two_nsmul, ← hP, addOrderOf_nsmul_eq_zero])

theorem n_dvd_card_points : Config.n ∣ Nat.card Spec.curve.Point := by
  obtain ⟨P, h, hP⟩ := exists_standsFor_g
  exact addOrderOf_of_standsFor_g h hP ▸ addOrderOf_dvd_natCard P

/-- A positive odd multiple of n that is below 3 n. -/
theorem card_points : Nat.card Spec.curve.Point = Config.n := by
  have := finite_points
  have hpos : 0 < Nat.card Spec.curve.Point := Nat.card_pos
  have hodd := not_two_dvd_card_points
  have hlt : Nat.card Spec.curve.Point < Config.n * 3 :=
    card_points_le.trans_lt (by decide)
  obtain ⟨m, hm⟩ := n_dvd_card_points
  rw [hm] at hpos hodd hlt ⊢
  have hm0 : 0 < m := Nat.pos_of_mul_pos_left hpos
  have hm3 : m < 3 := Nat.lt_of_mul_lt_mul_left hlt
  have hm2 : m ≠ 2 := fun h => hodd (h ▸ Dvd.intro_left _ rfl)
  rw [show m = 1 by omega, mul_one]

end Order

/-- Settles O29: G has prime order n, and the curve has fewer than 3 n points, an odd number. -/
theorem curveGroupHasOrderN : Obligations.CurveGroupHasOrderN := by
  have : Fact (Nat.Prime Config.p) := ⟨p_prime⟩
  exact ⟨satisfiesEquation_g, scalarMul_n_g, fun _ h0 hk => scalarMul_g_ne_zero h0 hk, card_points⟩

end Sys2Proof.Machine

/-! SUPPORT. Once, everything a step can do, by the event that happens (R77); and what the phases (R28), the sticky bits
(R37) and the invariant make of each case. -/

namespace Sys2Proof.Machine

/-- What one event does to the core, its agenda aside. For a transaction of the host the answer is left open. -/
inductive Effect (s : State) : Event → State → Prop where
  | coreRests : s.phase ≠ .run → Effect s .core s
  | coreFails (f : Failure) : s.phase = .run → Effect s .core (s.raise f)
  | coreCompletes (u : State) (f : Flags) : s.phase = .run → u = { s with regs := u.regs, pktag := u.pktag } →
      Effect s .core (u.complete f)
  | coreDraws (i : Instr) : s.phase = .run → decode s.cmd = .ok i → drawingCommand i = true →
      limitReached Config.drawLimit s.held.draws = false → Effect s .core s.requestDraw
  | hostAnswered (tr : Transaction) (a : PortAnswer) : Effect s (.host tr) (s.respond a)
  | hostViolates (tr : Transaction) (a : PortAnswer) : Effect s (.host tr) (s.violation.respond a)
  | hostStarts (v : Word) (a : PortAnswer) : s.busy = false →
      Effect s (.host (.write 0x004#10 4 v)) ((s.accept v).respond a)
  | hostClearsDone (tr : Transaction) (a : PortAnswer) : Effect s (.host tr) (State.respond { s with done := false } a)
  | hostSetsIe (tr : Transaction) (b : Bool) (a : PortAnswer) : Effect s (.host tr) (State.respond { s with ie := b } a)
  | hostResets (v : Word) (a : PortAnswer) : v.getLsbD 1 = true →
      Effect s (.host (.write 0x010#10 4 v)) (s.hardReset.respond a)
  | hostClearsSticky (v : Word) (a : PortAnswer) :
      Effect s (.host (.write 0x014#10 4 v))
        (State.respond { s with fsticky := s.fsticky &&& ~~~(v &&& fstickyMask) } a)
  | hostSetsOperands (tr : Transaction) (regs : Vector Value 16) (tag : Byte) (a : PortAnswer) : s.busy = false →
      Effect s (.host tr) (State.respond { s with regs := regs, pktag := tag } a)
  | entropyIgnored (valid fail : Bool) (data : Value) : Effect s (.entropy valid fail data) s
  | entropyAnswers (valid fail : Bool) (data : Value) (d : Draw) : s.rngwait = true → valid = true ∨ fail = true →
      Effect s (.entropy valid fail data) { s with rngwait := false, hidden := some { s.held with drawn := some d } }
  | resets : Effect s (.reset none) s.hardReset

theorem coreTurn_effect {s t : State} (h : coreTurn s = .next t) : Effect s .core t := by
  rcases coreTurn_cases s with ⟨hp, hc⟩ | ⟨hp, -, hc⟩ | ⟨hp, i, hd, hc⟩
  · cases hc.symm.trans h
    exact .coreRests hp
  · cases hc.symm.trans h
    exact .coreFails _ hp
  · rcases exec_cases i s with ⟨u, he, hends⟩ | ⟨hdraw, hlimit, he⟩
    · cases (hc.trans he).symm.trans h
      cases hends with
      | failed f _ => exact .coreFails f hp
      | done u f hu => exact .coreCompletes u f hp hu
    · cases (hc.trans he).symm.trans h
      exact .coreDraws i hp hd hdraw hlimit

theorem memRead_effect (s : State) (a : Offset) (size : Nat) : Effect s (.host (.read a size)) (memRead s a size) := by
  rcases memRead_cases s a size with ⟨-, h⟩ | ⟨m, -, h⟩
  · exact h ▸ .hostAnswered ..
  · rcases readEffect_cases s m with hm | ⟨-, hm⟩
    · rw [h, hm]; exact .hostAnswered ..
    · rw [h, hm]; exact .hostViolates ..

/-- The cases of R68. -/
theorem memWrite_effect (s : State) (a : Offset) (size : Nat) (v : Word) :
    Effect s (.host (.write a size v)) (memWrite s a size v) := by
  rcases memWrite_cases s a size v with ⟨-, h⟩ | ⟨m, hm, h⟩
  · exact h ▸ .hostAnswered ..
  rw [h]
  obtain ⟨rfl, -, hmap⟩ := target_some hm
  cases m with
  | id => exact .hostAnswered ..
  | flags => exact .hostAnswered ..
  | cmd =>
    obtain rfl := mapped_cmd a hmap
    cases hb : s.busy
    · simpa only [writeEffect, hb] using .hostStarts v _ hb
    · simpa only [writeEffect, hb] using .hostViolates ..
  | status =>
    by_cases hv : v.getLsbD 1 = true
    · simpa only [writeEffect, hv] using .hostClearsDone ..
    · simpa only [writeEffect, hv] using .hostAnswered ..
  | ctrl =>
    obtain rfl := mapped_ctrl a hmap
    by_cases hv : v.getLsbD 1 = true
    · simpa only [writeEffect, hv] using .hostResets v _ hv
    · simpa only [writeEffect, hv] using .hostSetsIe ..
  | fsticky =>
    obtain rfl := mapped_fsticky a hmap
    exact .hostClearsSticky v _
  | pktag =>
    cases hb : s.busy
    · simpa only [writeEffect, hb] using .hostSetsOperands _ s.regs (v.setWidth 8) _ hb
    · simpa only [writeEffect, hb] using .hostViolates ..
  | operand i j =>
    cases hb : s.busy
    · simpa only [writeEffect, hb] using
        .hostSetsOperands _ (s.regs.set i.toNat (setValueWord (s.reg i) j v)) s.pktag _ hb
    · simpa only [writeEffect, hb] using .hostViolates ..

theorem drawOfLines_some {valid fail : Bool} {data : Value} {d : Draw} (h : drawOfLines valid fail data = some d) :
    valid = true ∨ fail = true := by
  unfold drawOfLines at h
  split at h
  · exact .inr ‹_›
  split at h
  · exact .inl ‹_›
  · cases h

theorem entropyLines_effect (s : State) (valid fail : Bool) (data : Value) :
    Effect s (.entropy valid fail data) (entropyLines s valid fail data) := by
  unfold entropyLines
  split
  · rename_i hw
    split
    · exact .entropyIgnored ..
    · rename_i d hd
      exact .entropyAnswers _ _ _ d hw (drawOfLines_some hd)
  · exact .entropyIgnored ..

/-- A step that answers a next state takes the first event off the agenda and does what that event does. -/
theorem step_effect {s t : State} (h : step s = .next t) :
    Effect { s with agenda := s.agenda.tail } (Spec.event s) t := by
  unfold step at h
  split at h
  all_goals
    rename_i hagenda
    simp only [Spec.event, hagenda, List.headD_nil, List.headD_cons, List.tail_nil, List.tail_cons]
  · rw [← hagenda]
    exact coreTurn_effect h
  · exact coreTurn_effect h
  · rename_i tr rest
    cases h
    cases tr with
    | read a size => exact memRead_effect ..
    | write a size v => exact memWrite_effect ..
  · cases h
    exact entropyLines_effect ..
  · cases h
    exact .resets
  · cases h

end Sys2Proof.Machine

/-! SUPPORT. The transitions of the phase (R28) and the sticky bits (R37), read off the cases of a step. -/

namespace Sys2Proof.Machine

theorem phase_eq_of_not_busy {s t : State} (hs : s.busy = false) (ht : t.busy = false) : s.phase = t.phase := by
  rw [(phase_idle_iff s).2 hs, (phase_idle_iff t).2 ht]

/-- Settles O43: the phase is a function of BUSY and RNGWAIT, and each case of a step says what becomes of the two. -/
theorem phaseTransitions : Obligations.PhaseTransitions := by
  intro s t h
  have he := step_effect h
  generalize Spec.event s = e at he ⊢
  cases he with
  | coreRests hp => exact .inl ⟨rfl, fun _ => hp⟩
  | coreFails f hp => exact .inr (.inr (.inr (.inr (.inl ⟨hp, rfl, rfl, rfl⟩))))
  | coreCompletes u f hp _ => exact .inr (.inr (.inr (.inr (.inl ⟨hp, rfl, rfl, rfl⟩))))
  | coreDraws i hp hd hdraw _ =>
    have hwait : ({ s with agenda := s.agenda.tail } : State).requestDraw.phase = .wait :=
      (phase_wait_iff _).2 ⟨((phase_run_iff _).1 hp).1, rfl⟩
    exact .inr (.inr (.inl ⟨hp, hwait, rfl, i, hd, hdraw⟩))
  | hostStarts v a hb => exact .inr (.inl ⟨(phase_idle_iff s).2 hb, rfl, v, rfl⟩)
  | hostResets v a hv => exact .inr (.inr (.inr (.inr (.inr ⟨rfl, rfl, rfl, hv⟩))))
  | hostAnswered tr a => exact .inl ⟨rfl, nofun⟩
  | hostViolates tr a => exact .inl ⟨rfl, nofun⟩
  | hostClearsDone tr a => exact .inl ⟨rfl, nofun⟩
  | hostSetsIe tr b a => exact .inl ⟨rfl, nofun⟩
  | hostClearsSticky v a => exact .inl ⟨rfl, nofun⟩
  | hostSetsOperands tr regs tag a _ => exact .inl ⟨rfl, nofun⟩
  | entropyIgnored valid fail data => exact .inl ⟨rfl, nofun⟩
  | entropyAnswers valid fail data d hw hv =>
    have hw : s.rngwait = true := hw
    rcases Bool.eq_false_or_eq_true s.busy with hb | hb
    · have hwait : s.phase = .wait := (phase_wait_iff s).2 ⟨hb, hw⟩
      exact .inr (.inr (.inr (.inl ⟨hwait, (phase_run_iff _).2 ⟨hb, rfl⟩, valid, fail, data, rfl, hv⟩)))
    · exact .inl ⟨phase_eq_of_not_busy hb hb, nofun⟩
  | resets => exact .inr (.inr (.inr (.inr (.inr ⟨rfl, trivial⟩))))

/-- The implemented bits of FSTICKY (R37). -/
theorem getLsbD_fstickyMask {c : Nat} (h : fstickyMask.getLsbD c = true) : c = 8 ∨ 1 ≤ c ∧ c ≤ 5 := by
  have bits : ∀ c < 32, fstickyMask.getLsbD c = true → c = 8 ∨ 1 ≤ c ∧ c ≤ 5 := by decide
  exact bits c (BitVec.lt_of_getLsbD h) h

/-- A bit that a clear of the bits of m takes away is one of m. -/
theorem getLsbD_of_cleared {f m : Word} {c : Nat} (h : f.getLsbD c = true) (hc : (f &&& ~~~m).getLsbD c = false) :
    m.getLsbD c = true := by
  have hlt : c < 32 := BitVec.lt_of_getLsbD h
  simpa [h, hlt] using hc

/-- Settles O58: everything but a reset and a write of FSTICKY keeps the bits or adds to them. -/
theorem stickyBitsStay : Obligations.StickyBitsStay := by
  intro s t c h hs ht
  have he := step_effect h
  generalize Spec.event s = e at he ⊢
  have kept (x : Word) (hx : (s.fsticky ||| x).getLsbD c = false) : False := by simp [hs] at hx
  have same (hx : s.fsticky.getLsbD c = false) : False := by simp [hs] at hx
  cases he with
  | hostClearsSticky v a =>
    have hm := getLsbD_of_cleared hs ht
    rw [BitVec.getLsbD_and, Bool.and_eq_true] at hm
    exact .inl ⟨v, rfl, hm.1, getLsbD_fstickyMask hm.2⟩
  | hostResets v a hv => exact .inr ⟨rfl, rfl, hv⟩
  | resets => exact .inr trivial
  | coreFails f _ => exact (kept _ ht).elim
  | hostViolates tr a => exact (kept _ ht).elim
  | coreRests _ => exact (same ht).elim
  | coreCompletes u f _ hu =>
    rw [hu] at ht
    exact (same ht).elim
  | coreDraws _ _ _ _ _ => exact (same ht).elim
  | hostAnswered tr a => exact (same ht).elim
  | hostStarts v a _ => exact (same ht).elim
  | hostClearsDone tr a => exact (same ht).elim
  | hostSetsIe tr b a => exact (same ht).elim
  | hostSetsOperands tr regs tag a _ => exact (same ht).elim
  | entropyIgnored valid fail data => exact (same ht).elim
  | entropyAnswers valid fail data d _ _ => exact (same ht).elim

end Sys2Proof.Machine

/-! SUPPORT. The invariant of the core: how each operation keeps it. -/

namespace Sys2Proof.Machine

theorem State.Inv.hidden_none {s : State} (h : s.Inv) (hb : s.busy = false) : s.hidden = none := by
  simpa [hb] using h.hidden_iff_busy

theorem State.Inv.exists_hidden {s : State} (h : s.Inv) (hb : s.busy = true) : ∃ hd, s.hidden = some hd :=
  Option.isSome_iff_exists.1 (h.hidden_iff_busy.trans hb)

/-- In a core that runs nothing the clauses about a running command say nothing. -/
theorem State.Inv.of_not_busy {s : State} (hb : s.busy = false) (hw : s.rngwait = false) (hh : s.hidden = none)
    (ho : s.outcome.toNat ≤ 5) (hf : s.outcome ≠ 0 → s.flags = ⟨false, false, false⟩)
    (hr : s.fsticky &&& ~~~0x0000013E#32 = 0) : s.Inv where
  hidden_iff_busy := by rw [hh, hb]; rfl
  busy_not_done := by simp [hb]
  busy_outcome := by simp [hb]
  wait_busy := by simp [hw]
  outcome_range := ho
  failure_flags := hf
  sticky_reserved := hr
  sampled := by simp [hh]
  draws_counted := by simp [hh]
  wait_no_answer := by simp [hh]
  draws_limited := by simp [hh]

theorem State.Inv.setAgenda {s : State} (h : s.Inv) (l : List Event) : State.Inv { s with agenda := l } := { h with }

theorem State.Inv.respond {s : State} (h : s.Inv) (a : PortAnswer) : (s.respond a).Inv := { h with }

/-- Setting implemented sticky bits leaves the reserved ones 0 (R37). -/
theorem sticky_reserved_or {f x r : Word} (hf : f &&& r = 0) (hx : x &&& r = 0) : (f ||| x) &&& r = 0 := by
  rw [BitVec.and_comm] at hf hx ⊢
  rw [BitVec.and_or_distrib_left, hf, hx, BitVec.or_self]

/-- Clearing sticky bits leaves the reserved ones 0. -/
theorem sticky_reserved_and {f x r : Word} (hf : f &&& r = 0) : (f &&& x) &&& r = 0 := by
  rw [BitVec.and_assoc, BitVec.and_comm x, ← BitVec.and_assoc, hf]
  exact BitVec.zero_and

theorem failureCode_le (f : Failure) : (failureCode f).toNat ≤ 5 := by cases f <;> decide

/-- The sticky bit of an outcome is an implemented one. -/
theorem failureCode_sticky (f : Failure) : (1#32 <<< (failureCode f).toNat) &&& ~~~0x0000013E#32 = 0 := by
  cases f <;> decide

theorem State.Inv.raise {s : State} (h : s.Inv) (f : Failure) : (s.raise f).Inv :=
  .of_not_busy rfl rfl rfl (failureCode_le f) (fun _ => rfl)
    (sticky_reserved_or h.sticky_reserved (failureCode_sticky f))

/-- A command that ends with outcome OK has written registers, `PKTAG` and flags. -/
theorem State.Inv.complete {s u : State} (h : s.Inv) (f : Flags)
    (hu : u = { s with regs := u.regs, pktag := u.pktag }) : (u.complete f).Inv :=
  .of_not_busy rfl rfl rfl (by simp) (fun h0 => absurd rfl h0) (by rw [hu]; exact h.sticky_reserved)

/-- One more draw is within the limit where the limit is not reached (R138, R139). -/
theorem succ_le_of_not_limitReached {limit : Config.DrawLimit} {d : Nat} (h : limitReached limit d = false)
    (hle : ∀ k, limit = some k → d ≤ k.val) : ∀ k, limit = some k → d + 1 ≤ k.val := by
  intro k hk
  have hne : d ≠ k.val := fun e => by simp [(limitReached_iff limit d).2 ⟨k, hk, e⟩] at h
  exact Nat.lt_of_le_of_ne (hle k hk) hne

theorem State.Inv.requestDraw {s : State} (h : s.Inv) {i : Instr} (hp : s.phase = .run) (hd : decode s.cmd = .ok i)
    (hdraw : drawingCommand i = true) (hlimit : limitReached Config.drawLimit s.held.draws = false) :
    s.requestDraw.Inv := by
  obtain ⟨hb, -⟩ := (phase_run_iff s).1 hp
  obtain ⟨held, hs⟩ := h.exists_hidden hb
  rw [State.held_of_some hs] at hlimit
  have hreq : s.requestDraw.hidden = some { held with draws := held.draws + 1, drawn := none } := by
    rw [State.requestDraw_hidden, State.held_of_some hs]
  exact { h with
    hidden_iff_busy := by rw [hreq]; exact hb.symm
    wait_busy := fun _ => hb
    sampled := by rw [hreq]; rintro _ ⟨⟩; exact h.sampled held hs
    draws_counted := by rintro _ ⟨⟩ -; exact ⟨Nat.succ_pos _, i, hd, hdraw⟩
    wait_no_answer := by rintro _ ⟨⟩ -; rfl
    draws_limited := by
      rw [hreq]
      rintro _ ⟨⟩
      exact succ_le_of_not_limitReached hlimit (h.draws_limited held hs) }

theorem State.Inv.violation {s : State} (h : s.Inv) : s.violation.Inv :=
  { h with sticky_reserved := sticky_reserved_or h.sticky_reserved (by decide) }

/-- Acceptance samples the sources; no draw is made yet (R73, R74). -/
theorem State.Inv.accept {s : State} (h : s.Inv) (w : Word) : (s.accept w).Inv where
  hidden_iff_busy := rfl
  busy_not_done _ := rfl
  busy_outcome _ := rfl
  wait_busy := nofun
  outcome_range := by simp
  failure_flags h0 := absurd rfl h0
  sticky_reserved := h.sticky_reserved
  sampled := by rintro _ ⟨⟩; exact ⟨rfl, rfl⟩
  draws_counted := by rintro _ ⟨⟩ (h0 | h0) <;> simp at h0
  wait_no_answer := by rintro _ ⟨⟩ -; rfl
  draws_limited := by rintro _ ⟨⟩ k -; exact Nat.zero_le _

/-- The host writes operands and tag only while no sampled copy is held (R269). -/
theorem State.Inv.setOperands {s : State} (h : s.Inv) (hb : s.busy = false) (regs : Vector Value 16) (tag : Byte) :
    State.Inv { s with regs := regs, pktag := tag } :=
  .of_not_busy hb (by by_contra hw; simp [h.wait_busy (by simpa using hw)] at hb) (h.hidden_none hb) h.outcome_range
    h.failure_flags h.sticky_reserved

/-- An answer of the entropy source is for a draw that was counted (R236). -/
theorem State.Inv.answer {s : State} (h : s.Inv) (hw : s.rngwait = true) (d : Draw) :
    State.Inv { s with rngwait := false, hidden := some { s.held with drawn := some d } } := by
  have hb := h.wait_busy hw
  obtain ⟨held, hs⟩ := h.exists_hidden hb
  rw [State.held_of_some hs]
  exact { h with
    hidden_iff_busy := hb.symm
    wait_busy := nofun
    sampled := by rintro _ ⟨⟩; exact h.sampled held hs
    draws_counted := by rintro _ ⟨⟩ -; exact h.draws_counted held hs (.inl hw)
    wait_no_answer := nofun
    draws_limited := by rintro _ ⟨⟩; exact h.draws_limited held hs }

theorem State.inv_reset : State.reset.Inv := .of_not_busy rfl rfl rfl (by decide) (fun _ => rfl) (by decide)

theorem State.inv_hardReset (s : State) : s.hardReset.Inv := State.inv_reset.setAgenda s.agenda

theorem Effect.keeps_inv {s t : State} {e : Event} (he : Effect s e t) (h : s.Inv) : t.Inv := by
  cases he with
  | coreRests _ => exact h
  | coreFails f _ => exact h.raise f
  | coreCompletes u f _ hu => exact h.complete f hu
  | coreDraws i hp hd hdraw hlimit => exact h.requestDraw hp hd hdraw hlimit
  | hostAnswered tr a => exact h.respond a
  | hostViolates tr a => exact h.violation.respond a
  | hostStarts v a _ => exact (h.accept v).respond a
  | hostClearsDone tr a => exact { h with busy_not_done := fun _ => rfl }
  | hostSetsIe tr b a => exact { h with }
  | hostResets v a _ => exact (State.inv_hardReset s).respond a
  | hostClearsSticky v a => exact { h with sticky_reserved := sticky_reserved_and h.sticky_reserved }
  | hostSetsOperands tr regs tag a hb => exact (h.setOperands hb regs tag).respond a
  | entropyIgnored _ _ _ => exact h
  | entropyAnswers _ _ _ d hw _ => exact h.answer hw d
  | resets => exact State.inv_hardReset s

/-- Settles O44, by the cases of a step. -/
theorem stepKeepsInvariant : Obligations.StepKeepsInvariant :=
  fun _ _ hs h => (step_effect h).keeps_inv (hs.setAgenda _)

/-- Settles O45. -/
theorem resetHasInvariant : Obligations.ResetHasInvariant := State.inv_reset

end Sys2Proof.Machine

/-! SUPPORT. The reset values (R41), and the host port on a state without its hidden state (R39). -/

namespace Sys2Proof.Machine

theorem State.reg_reset (i : Index) : State.reset.reg i = 0 := Vector.getElem_replicate _

/-- Settles O47, by evaluating the reset state and the constants. -/
theorem resetValues : Obligations.ResetValues :=
  ⟨State.reg_reset, rfl, rfl, rfl, rfl, rfl, rfl, rfl, rfl, rfl, rfl, rfl, rfl, rfl, by decide,
    by decide, rfl, rfl, rfl, rfl, rfl⟩

/-- The state but for the hidden execution state. -/
def State.shown (s : State) : State := { s with hidden := none }

theorem readData_shown (s : State) (m : Mapped) : readData s.shown m = readData s m := by cases m <;> rfl

theorem State.ite_shown {c : Bool} {a a' b b' : State} (ha : a.shown = a'.shown) (hb : b.shown = b'.shown) :
    (if c then a else b).shown = (if c then a' else b').shown := by
  cases c
  · exact hb
  · exact ha

theorem readEffect_shown (s : State) (m : Mapped) : (readEffect s.shown m).shown = (readEffect s m).shown := by
  cases m with
  | pktag => exact State.ite_shown rfl rfl
  | operand i j => exact State.ite_shown rfl rfl
  | _ => rfl

/-- A write never reads the hidden state; acceptance and a soft reset replace it. -/
theorem writeEffect_shown (s : State) (v : Word) (m : Mapped) :
    (writeEffect s.shown v m).shown = (writeEffect s v m).shown := by
  cases m with
  | cmd => exact State.ite_shown rfl rfl
  | status => exact State.ite_shown rfl rfl
  | ctrl => exact State.ite_shown rfl rfl
  | pktag => exact State.ite_shown rfl rfl
  | operand i j => exact State.ite_shown rfl rfl
  | _ => rfl

theorem State.respond_shown (s : State) (a : PortAnswer) : (s.respond a).shown = s.shown.respond a := rfl

/-- Every transaction is served from the shown part of the state alone. -/
theorem serve_shown (s : State) (tr : Transaction) : (serve s.shown tr).shown = (serve s tr).shown := by
  cases tr with
  | read a size =>
    simp only [serve, memRead]
    split
    · rfl
    · rw [State.respond_shown, State.respond_shown, readEffect_shown, readData_shown]
  | write a size v =>
    simp only [serve, memWrite]
    split
    · rfl
    · rw [State.respond_shown, State.respond_shown, writeEffect_shown]

/-- Settles O59: states that differ in the hidden state only have the same shown part. -/
theorem hiddenStateUnobservable : Obligations.HiddenStateUnobservable := by
  intro s h' tr s'
  have hshown : s'.shown = s.shown := rfl
  have hserve : (serve s' tr).shown = (serve s tr).shown := by rw [← serve_shown s', hshown, serve_shown]
  exact ⟨hserve, rfl, rfl⟩

end Sys2Proof.Machine

/-! SUPPORT. The affine form in `ZMod p`: x = X / Z^2 and y = Y / Z^3 (R24, R162). -/

namespace Sys2Proof.Machine

theorem aff_of_z_eq_zero {t : Triple} (hz : t.z = 0) : aff t = Triple.identity := if_pos hz

theorem aff_of_z_ne_zero {t : Triple} (hz : t.z ≠ 0) :
    aff t = ⟨fmul t.x (fsqr (invMod Config.p t.z)),
      fmul t.y (fmul (fsqr (invMod Config.p t.z)) (invMod Config.p t.z)), 1⟩ := if_neg hz

section AffineForm

variable [Fact (Nat.Prime Config.p)]

/-- Fermat: the power p - 2 is the inverse, and 0 for 0 (R116). -/
theorem cast_invMod_p (a : Nat) : ((invMod Config.p a : ℕ) : ZMod Config.p) = (a : ZMod Config.p)⁻¹ := by
  rw [invMod_eq p_lt_two_pow, ZMod.natCast_mod, Nat.cast_pow]
  have hexp : Config.p - 2 + 1 = Config.p - 1 := by decide
  have hne : Config.p - 2 ≠ 0 := by decide
  generalize Config.p - 2 = e at hexp hne
  by_cases ha : (a : ZMod Config.p) = 0
  · rw [ha, zero_pow hne, inv_zero]
  · exact eq_inv_of_mul_eq_one_left (by rw [← pow_succ, hexp, ZMod.pow_card_sub_one_eq_one ha])

/-- Two triples off the identity with the same X / Z^2 and Y / Z^3 have the same affine form. -/
theorem aff_eq_of_cast {t u : Triple} (ht : t.z ≠ 0) (hu : u.z ≠ 0)
    (hx : (t.x : ZMod Config.p) * ((t.z : ZMod Config.p)⁻¹) ^ 2 = u.x * ((u.z : ZMod Config.p)⁻¹) ^ 2)
    (hy : (t.y : ZMod Config.p) * ((t.z : ZMod Config.p)⁻¹) ^ 3 = u.y * ((u.z : ZMod Config.p)⁻¹) ^ 3) :
    aff t = aff u := by
  rw [aff_of_z_ne_zero ht, aff_of_z_ne_zero hu, Triple.mk.injEq]
  refine ⟨eq_of_cast_eq (fmul_lt _ _) (fmul_lt _ _) ?_, eq_of_cast_eq (fmul_lt _ _) (fmul_lt _ _) ?_, rfl⟩
  · simpa only [cast_fmul, cast_fsqr, cast_invMod_p] using hx
  · simpa only [cast_fmul, cast_fsqr, cast_invMod_p, ← pow_succ] using hy

theorem aff_rescale {t : Triple} {l : Nat} (ht : inRange t = true) (hl0 : 1 ≤ l) (hl : l < Config.p) :
    aff ⟨fmul (fsqr l) t.x, fmul (fmul (fsqr l) l) t.y, fmul l t.z⟩ = aff t := by
  by_cases hz : t.z = 0
  · rw [aff_of_z_eq_zero hz]
    exact aff_of_z_eq_zero (by simp [hz, fmul, mulMod])
  have hz' := cast_z_ne_zero ht hz
  have hl' : (l : ZMod Config.p) ≠ 0 := mt (cast_eq_zero hl).1 (by omega)
  have hlz : fmul l t.z ≠ 0 := by
    rw [ne_eq, ← cast_eq_zero (fmul_lt _ _), cast_fmul]
    exact mul_ne_zero hl' hz'
  refine aff_eq_of_cast hlz hz ?_ ?_
  all_goals
    simp only [cast_fmul, cast_fsqr]
    field_simp

end AffineForm

/-- Settles O30: l cancels in X / Z^2 and in Y / Z^3. -/
theorem affineFormIgnoresRepresentation : Obligations.AffineFormIgnoresRepresentation := by
  have : Fact (Nat.Prime Config.p) := ⟨p_prime⟩
  exact fun _ _ ht hl0 hl => aff_rescale ht hl0 hl

end Sys2Proof.Machine

/-! SUPPORT. The frame of a command (R76, R93): what the writes of a completion leave as it was. -/

namespace Sys2Proof.Machine

/-- t is s but for the registers ks, `PKTAG` where `tag` allows it, and the completion's own fields; sticky bits stay. -/
structure Keeps (ks : List Nat) (tag : Bool) (s t : State) : Prop where
  regs : ∀ k, k ∉ ks → t.regs[k]? = s.regs[k]?
  pktag : tag = false → t.pktag = s.pktag
  cmd : t.cmd = s.cmd
  ie : t.ie = s.ie
  agenda : t.agenda = s.agenda
  portAnswer : t.portAnswer = s.portAnswer
  fsticky : s.fsticky &&& t.fsticky = s.fsticky

/-- The result is a next state with the property P. -/
def Answers (P : State → Prop) (r : Result) : Prop := ∃ t, r = .next t ∧ P t

theorem Answers.next {P : State → Prop} {t : State} (h : P t) : Answers P (.next t) := ⟨t, rfl, h⟩

theorem Answers.ite {P : State → Prop} {c : Prop} [Decidable c] {r r' : Result} (h : Answers P r) (h' : Answers P r') :
    Answers P (if c then r else r') := by
  split
  · exact h
  · exact h'

theorem toNat_add_one_of_pairIndexOk {i : Index} (h : pairIndexOk i = true) : (i + 1).toNat = i.toNat + 1 := by
  have : i.toNat ≤ 14 := of_decide_eq_true h
  bv_omega

theorem pairIndexOk_of_pointIndexOk {i : Index} (h : pointIndexOk i = true) : pairIndexOk i = true := by
  have : i.toNat ≤ 13 := of_decide_eq_true h
  exact decide_eq_true (by omega)

theorem toNat_add_two_of_pointIndexOk {i : Index} (h : pointIndexOk i = true) : (i + 2).toNat = i.toNat + 2 := by
  have : i.toNat ≤ 13 := of_decide_eq_true h
  bv_omega

/-- A word that keeps every bit of f still does with more bits set. -/
theorem and_or_of_and_eq {f g x : Word} (h : f &&& g = f) : f &&& (g ||| x) = f := by
  rw [BitVec.and_or_distrib_left, h]
  ext k hk
  rw [BitVec.getElem_or, BitVec.getElem_and]
  exact sup_inf_self

section Keeps

variable {ks : List Nat} {tag : Bool} {s u : State}

theorem Keeps.refl (ks : List Nat) (tag : Bool) (s : State) : Keeps ks tag s s :=
  ⟨fun _ _ => rfl, fun _ => rfl, rfl, rfl, rfl, rfl, BitVec.and_self⟩

theorem Keeps.raise (h : Keeps ks tag s u) (f : Failure) : Keeps ks tag s (u.raise f) :=
  { h with fsticky := and_or_of_and_eq h.fsticky }

theorem Keeps.requestDraw (h : Keeps ks tag s u) : Keeps ks tag s u.requestDraw := { h with }

theorem Keeps.complete (h : Keeps ks tag s u) (f : Flags) : Keeps ks tag s (u.complete f) := { h with }

theorem Keeps.setTag (h : Keeps ks true s u) (t : Byte) : Keeps ks true s (u.setTag t) :=
  { h with pktag := nofun }

theorem Keeps.setReg (h : Keeps ks tag s u) {i : Index} (hi : i.toNat ∈ ks) (v : Value) :
    Keeps ks tag s (u.setReg i v) :=
  { h with
    regs := fun k hk => by
      have hne : i.toNat ≠ k := fun e => hk (e ▸ hi)
      rw [State.setReg_regs, Vector.getElem?_set_ne _ hne, h.regs k hk] }

theorem Keeps.setPair (rd : Index) (hrd : pairIndexOk rd = true) (h : Keeps [rd.toNat, rd.toNat + 1] tag s u)
    (x y : Nat) : Keeps [rd.toNat, rd.toNat + 1] tag s (u.setPair rd x y) :=
  (h.setReg (by simp) _).setReg (by rw [toNat_add_one_of_pairIndexOk hrd]; simp) _

theorem Keeps.setPoint (rd : Index) (hrd : pointIndexOk rd = true)
    (h : Keeps [rd.toNat, rd.toNat + 1, rd.toNat + 2] tag s u) (t : Triple) :
    Keeps [rd.toNat, rd.toNat + 1, rd.toNat + 2] tag s (u.setPoint rd t) :=
  ((h.setReg (by simp) _).setReg (by rw [toNat_add_one_of_pairIndexOk (pairIndexOk_of_pointIndexOk hrd)]; simp) _).setReg
    (by rw [toNat_add_two_of_pointIndexOk hrd]; simp) _

end Keeps

/-- A failing completion writes no destination (R224). -/
theorem answers_raise (ks : List Nat) (tag : Bool) (s : State) (f : Failure) :
    Answers (Keeps ks tag s) (.next (s.raise f)) := .next ((Keeps.refl ..).raise f)

theorem answers_completeResidue (rd : Index) (tag : Bool) (s : State) (v : Nat) :
    Answers (Keeps [rd.toNat] tag s) (.next (s.completeResidue rd v)) :=
  .next (((Keeps.refl ..).setReg (List.mem_singleton_self _) _).complete _)

theorem answers_completePoint (rd : Index) (hrd : pointIndexOk rd = true) (tag : Bool) (s : State) (t : Triple) :
    Answers (Keeps [rd.toNat, rd.toNat + 1, rd.toNat + 2] tag s) (.next (s.completePoint rd t)) :=
  .next (((Keeps.refl ..).setPoint rd hrd t).complete _)

theorem residue2_keeps (m : Nat) (f : Nat → Nat → Nat) (rd ra rb : Index) (tag : Bool) (s : State) :
    Answers (Keeps [rd.toNat] tag s) (residue2 m f rd ra rb s) :=
  .ite (answers_raise ..) (answers_completeResidue ..)

theorem residue1_keeps (m : Nat) (f : Nat → Nat) (rd ra : Index) (tag : Bool) (s : State) :
    Answers (Keeps [rd.toNat] tag s) (residue1 m f rd ra s) :=
  .ite (answers_raise ..) (answers_completeResidue ..)

theorem point1_keeps (f : Triple → Triple) (rd ra : Index) (hrd : pointIndexOk rd = true) (tag : Bool) (s : State) :
    Answers (Keeps [rd.toNat, rd.toNat + 1, rd.toNat + 2] tag s) (point1 f rd ra s) :=
  .ite (answers_completePoint _ hrd ..) (answers_raise ..)

/-- The sampler writes what the attempt writes that it ends with, and nothing where it fails or waits (R138). -/
theorem nextScalar_keeps {ks : List Nat} {tag : Bool} {s : State} (limit : Config.DrawLimit)
    (attempt : Value → Option State) (ha : ∀ v t, attempt v = some t → Keeps ks tag s t) :
    Answers (Keeps ks tag s) (.next (s.nextScalar limit attempt)) := by
  rcases nextScalar_cases limit attempt s with h | ⟨-, h⟩ | ⟨v, t, -, -, hv, h⟩
  · exact h ▸ answers_raise ..
  · exact .next (h ▸ (Keeps.refl ..).requestDraw)
  · exact .next (h ▸ ha v t hv)

/-- Every command answers a next state, and writes no register and no tag but those of its row (R93). -/
theorem exec_keeps (i : Instr) (s : State) (hw : i.wellFormed = true) :
    Answers (Keeps (Spec.dests i) (Spec.writesTag i) s) (exec i s) := by
  cases i with
  | nop => exact .next ((Keeps.refl ..).complete _)
  | fadd rd ra rb => exact residue2_keeps ..
  | fsub rd ra rb => exact residue2_keeps ..
  | fmul rd ra rb => exact residue2_keeps ..
  | fsqr rd ra => exact residue1_keeps ..
  | finv rd ra => exact residue1_keeps ..
  | nadd rd ra rb => exact residue2_keeps ..
  | nsub rd ra rb => exact residue2_keeps ..
  | nmul rd ra rb => exact residue2_keeps ..
  | nsqr rd ra => exact residue1_keeps ..
  | ninv rd ra => exact residue1_keeps ..
  | nred rd ra => exact answers_completeResidue ..
  | nrand rd =>
    refine nextScalar_keeps _ _ ?_
    rintro v _ ⟨⟩
    exact ((Keeps.refl ..).setReg (List.mem_singleton_self _) _).complete _
  | pdbl rd ra => exact point1_keeps _ _ _ (Bool.and_eq_true_iff.1 hw).1 ..
  | paff rd ra => exact point1_keeps _ _ _ (Bool.and_eq_true_iff.1 hw).1 ..
  | padd rd ra rb =>
    obtain ⟨hrd, -⟩ := Bool.and_eq_true_iff.1 (Bool.and_eq_true_iff.1 hw).1
    exact .ite (answers_completePoint _ hrd ..) (answers_raise ..)
  | pmul rd ra rb =>
    obtain ⟨hrd, -⟩ := Bool.and_eq_true_iff.1 hw
    exact .ite (answers_raise ..) (.ite (answers_raise ..) (.ite (answers_raise ..) (answers_completePoint _ hrd ..)))
  | pchk ra => exact .ite (.next ((Keeps.refl ..).complete _)) (answers_raise ..)
  | pdec rd ra =>
    simp only [exec, execPdec]
    split
    · exact answers_raise ..
    · exact .next (((Keeps.refl ..).setPoint rd hw _).complete _)
  | penc rd ra =>
    refine .ite (answers_raise ..) (.ite (answers_raise ..) (.next (Keeps.complete (Keeps.setTag ?_ _) _)))
    exact (Keeps.refl ..).setReg (List.mem_singleton_self _) _
  | keygen rd =>
    refine nextScalar_keeps _ _ ?_
    rintro v _ ⟨⟩
    exact (((Keeps.refl ..).setPair rd hw _ _).setTag _).complete _
  | sign rd ra rb =>
    refine .ite (answers_raise ..) (nextScalar_keeps _ _ fun k t ht => ?_)
    split at ht
    · cases ht
    · cases ht
      exact ((Keeps.refl ..).setPair rd hw _ _).complete _
  | verify ra rb rc =>
    refine .ite (answers_raise ..) ?_
    split
    · exact answers_raise ..
    · exact .ite (.next ((Keeps.refl ..).complete _)) (answers_raise ..)

/-- Settles O41, by the frame of each command. -/
theorem commandFrame : Obligations.CommandFrame := by
  intro i s t hw ht
  obtain ⟨u, hu, hk⟩ := exec_keeps i s hw
  cases hu.symm.trans ht
  exact ⟨hk.regs, hk.pktag, hk.cmd, hk.ie, hk.agenda, hk.portAnswer, hk.fsticky⟩

end Sys2Proof.Machine

/-! SUPPORT. The host port one rule at a time: what a step serves (R77), what each offset is (R65), what a read answers
(R67) and a write does (R68). -/

namespace Sys2Proof.Machine

/-! ### A step by its event -/

theorem step_of_nil {s : State} (h : s.agenda = []) : step s = coreTurn s := by
  simp only [step, h]

theorem step_of_core {s : State} {rest : List Event} (h : s.agenda = .core :: rest) :
    step s = coreTurn { s with agenda := rest } := by
  simp only [step, h]

theorem step_of_host {s : State} {rest : List Event} {tr : Transaction} (h : s.agenda = .host tr :: rest) :
    step s = .next (serve { s with agenda := rest } tr) := by
  simp only [step, h]

theorem coreTurn_of_not_busy {s : State} (hb : s.busy = false) : coreTurn s = .next s := by
  simp only [coreTurn, (phase_idle_iff s).2 hb]

theorem coreTurn_of_run {s : State} {i : Instr} (hb : s.busy = true) (hw : s.rngwait = false)
    (hd : decode s.cmd = .ok i) : coreTurn s = exec i s := by
  simp only [coreTurn, (phase_run_iff s).2 ⟨hb, hw⟩, hd]

/-- Settles O37: the event decides, and then the phase (R28). -/
theorem stepRunsDecodedCommand : Obligations.StepRunsDecodedCommand := by
  intro s rest
  refine ⟨fun i hb hw hd => ⟨fun ha => ?_, fun ha => ?_⟩, fun hb => ⟨fun ha => ?_, fun ha => ?_⟩,
    fun _ => step_of_host, fun _ _ _ => ⟨rfl, rfl⟩⟩
  · exact (step_of_core ha).trans (coreTurn_of_run hb hw hd)
  · exact (step_of_nil ha).trans (coreTurn_of_run hb hw hd)
  · exact (step_of_core ha).trans (coreTurn_of_not_busy hb)
  · exact (step_of_nil ha).trans (coreTurn_of_not_busy hb)

/-! ### What an offset addresses -/

/-- No offset between `PKTAG` and the operand registers is mapped (R65). -/
theorem mapped_eq_none {a : Offset} (h1 : 0x01C ≤ a.toNat) (h2 : a.toNat < 0x200) : mapped a = none := by
  unfold mapped
  repeat rw [if_neg (by omega)]

theorem target_eq_none {a : Offset} {size : Nat}
    (h : size ≠ 4 ∨ a.toNat % 4 ≠ 0 ∨ (0x01C ≤ a.toNat ∧ a.toNat < 0x200)) : target a size = none := by
  unfold target
  split
  · obtain ⟨h1, h2⟩ : 0x01C ≤ a.toNat ∧ a.toNat < 0x200 := by omega
    exact mapped_eq_none h1 h2
  · rfl

theorem target_operand {i j : Nat} (hi : i < 16) (hj : j < 8) :
    target (BitVec.ofNat 10 (0x200 + 32 * i + 4 * j)) 4 = some (.operand (BitVec.ofNat 4 i) ⟨j, hj⟩) := by
  have h := mapped_operand (BitVec.ofNat 4 i) ⟨j, hj⟩
  rwa [BitVec.toNat_ofNat, Nat.mod_eq_of_lt hi] at h

/-! ### A transaction by what it addresses -/

section Served

variable {s : State} {a : Offset} {size : Nat} {m : Mapped} {v : Word}

theorem memRead_of_none (h : target a size = none) : memRead s a size = s.respond (.read .error 0#32) := by
  simp only [memRead, h]

theorem memRead_of_some (h : target a size = some m) :
    memRead s a size = (readEffect s m).respond (.read .okay (readData s m)) := by
  simp only [memRead, h]

theorem memWrite_of_none (h : target a size = none) : memWrite s a size v = s.respond (.write .error) := by
  simp only [memWrite, h]

theorem memWrite_of_some (h : target a size = some m) :
    memWrite s a size v = (writeEffect s v m).respond (.write .okay) := by
  simp only [memWrite, h]

end Served

/-- Settles O50: these transactions address nothing. -/
theorem badTransactionsChangeNothing : Obligations.BadTransactionsChangeNothing :=
  fun _ _ _ _ h => ⟨memRead_of_none (target_eq_none h), memWrite_of_none (target_eq_none h)⟩

/-! ### The effect of a write (R68) -/

theorem writeEffect_cmd_of_not_busy {s : State} (hb : s.busy = false) (v : Word) :
    writeEffect s v .cmd = s.accept v := by
  simp [writeEffect, hb]

theorem writeEffect_status (s : State) (v : Word) :
    writeEffect s v .status = { s with done := s.done && !v.getLsbD 1 } := by
  cases hv : v.getLsbD 1
  · simp only [writeEffect, hv, Bool.false_eq_true, if_false, Bool.not_false, Bool.and_true]
  · simp only [writeEffect, hv, if_true, Bool.not_true, Bool.and_false]

theorem writeEffect_ctrl_of_not_reset {v : Word} (hv : v.getLsbD 1 = false) (s : State) :
    writeEffect s v .ctrl = { s with ie := v.getLsbD 0 } := by
  simp only [writeEffect, hv, Bool.false_eq_true, if_false]

theorem writeEffect_pktag_of_not_busy {s : State} (hb : s.busy = false) (v : Word) :
    writeEffect s v .pktag = s.setTag (v.setWidth 8) := by
  simp [writeEffect, hb]

theorem writeEffect_operand_of_not_busy {s : State} (hb : s.busy = false) (v : Word) (i : Index) (j : Fin 8) :
    writeEffect s v (.operand i j) = s.setReg i (setValueWord (s.reg i) j v) := by
  simp [writeEffect, hb]

/-- Settles O39: a write of `CMD` to an idle core is the acceptance of its word. -/
theorem acceptanceStep : Obligations.AcceptanceStep := by
  intro s w rest hb ha
  have htarget : target 0x004#10 4 = some .cmd := by decide
  have hb' : ({ s with agenda := rest } : State).busy = false := hb
  rw [step_of_host ha, serve, memWrite_of_some htarget, writeEffect_cmd_of_not_busy hb']
  rfl

/-- Settles O52, row by row of R68. -/
theorem controlWriteTable : Obligations.ControlWriteTable := by
  intro s v okay
  have write {a : Offset} {m : Mapped} {t : State} (ha : target a 4 = some m) (ht : writeEffect s v m = t) :
      memWrite s a 4 v = okay t := by rw [memWrite_of_some ha, ht]; rfl
  refine ⟨?id, ?status, ?flags, fun hv => ?ctrl, ?fsticky, fun hb => ?pktag⟩
  case id => exact write (m := .id) (by decide) rfl
  case status => exact write (by decide) (writeEffect_status s v)
  case flags => exact write (m := .flags) (by decide) rfl
  case ctrl => exact write (by decide) (writeEffect_ctrl_of_not_reset hv s)
  case fsticky => exact write (m := .fsticky) (by decide) rfl
  case pktag =>
    rw [BitVec.ofNat_toNat]
    exact write (by decide) (writeEffect_pktag_of_not_busy hb v)

/-! ### The data of a read (R67) -/

theorem statusWord_eq (s : State) :
    statusWord s =
      BitVec.ofNat 32 (s.outcome.toNat * 16 + s.rngwait.toNat * 4 + s.done.toNat * 2 + s.busy.toNat) := by
  unfold statusWord
  generalize s.outcome = o, s.rngwait = r, s.done = d, s.busy = b
  revert o r d b
  decide

theorem flagsWord_eq (f : Flags) :
    flagsWord f = BitVec.ofNat 32 (f.t.toNat * 4 + f.inf.toNat * 2 + f.z.toNat) := by
  obtain ⟨z, inf, t⟩ := f
  revert z inf t
  decide

theorem ctrlWord_eq (s : State) : ctrlWord s = BitVec.ofNat 32 s.ie.toNat := by
  unfold ctrlWord
  cases s.ie <;> decide

/-- Word j of a register as a number (R66). -/
theorem valueWord_eq (v : Value) (j : Fin 8) : valueWord v j = BitVec.ofNat 32 (v.toNat / 2 ^ (224 - 32 * j.val)) := by
  rw [← Nat.shiftRight_eq_div_pow]
  rfl

theorem readData_pktag_of_not_busy {s : State} (hb : s.busy = false) : readData s .pktag = s.pktag.setWidth 32 := by
  simp [readData, hb]

theorem readData_operand_of_not_busy {s : State} (hb : s.busy = false) (i : Index) (j : Fin 8) :
    readData s (.operand i j) = valueWord (s.reg i) j := by
  simp [readData, hb]

theorem readEffect_of_not_busy {s : State} (hb : s.busy = false) (m : Mapped) : readEffect s m = s := by
  rcases readEffect_cases s m with h | ⟨h, -⟩
  · exact h
  · simp [hb] at h

/-- What an idle core answers to a read of an operand word (R66). -/
theorem memRead_operand_of_not_busy {s : State} (hb : s.busy = false) {i j : Nat} (hi : i < 16) (hj : j < 8) :
    memRead s (BitVec.ofNat 10 (0x200 + 32 * i + 4 * j)) 4 =
      s.respond (.read .okay (valueWord (s.reg (BitVec.ofNat 4 i)) ⟨j, hj⟩)) := by
  rw [memRead_of_some (target_operand hi hj), readEffect_of_not_busy hb, readData_operand_of_not_busy hb]

/-- The words that a busy core masks (R270). -/
theorem memRead_masked {s : State} (hb : s.busy = true) {a : Offset} {m : Mapped} (ha : target a 4 = some m)
    (hm : m = .pktag ∨ ∃ i j, m = .operand i j) : memRead s a 4 = s.violation.respond (.read .okay 0#32) := by
  rw [memRead_of_some ha]
  rcases hm with rfl | ⟨i, j, rfl⟩
  · simp [readEffect, readData, hb]
  · simp [readEffect, readData, hb]

/-- Settles O51, row by row of R67. -/
theorem memReadTable : Obligations.MemReadTable := by
  intro s okay bit
  have read {a : Offset} {m : Mapped} {d : Word} (ha : target a 4 = some m) (he : readEffect s m = s)
      (hd : readData s m = d) : memRead s a 4 = okay d := by rw [memRead_of_some ha, he, hd]; rfl
  refine ⟨?id, ?cmd, ?status, ?flags, ?ctrl, ?fsticky, fun hb => ?pktag, fun hb i j hi hj => ?operand,
    fun hb => ⟨?busyTag, fun i j hi hj => ?busyOperand⟩⟩
  case id => exact read (m := .id) (by decide) rfl rfl
  case cmd => exact read (m := .cmd) (by decide) rfl rfl
  case status => exact read (m := .status) (by decide) rfl (statusWord_eq s)
  case flags => exact read (m := .flags) (by decide) rfl (flagsWord_eq s.flags)
  case ctrl => exact read (m := .ctrl) (by decide) rfl (ctrlWord_eq s)
  case fsticky => exact read (m := .fsticky) (by decide) rfl rfl
  case pktag =>
    rw [BitVec.ofNat_toNat]
    exact read (by decide) (readEffect_of_not_busy hb _) (readData_pktag_of_not_busy hb)
  case operand =>
    rw [memRead_operand_of_not_busy hb hi hj, valueWord_eq]
    rfl
  case busyTag => exact memRead_masked hb (m := .pktag) (by decide) (.inl rfl)
  case busyOperand => exact memRead_masked hb (target_operand hi hj) (.inr ⟨_, _, rfl⟩)

end Sys2Proof.Machine

/-! SUPPORT. The operand window: a word written is that word (R70), and the bytes of a register are big-endian (R64,
R66). -/

namespace Sys2Proof.Machine

theorem State.reg_respond (s : State) (a : PortAnswer) (i : Index) : (s.respond a).reg i = s.reg i := rfl

/-- After a write of word j of register i every other word of the registers is as before (R70). -/
theorem valueWord_reg_setReg_other (s : State) (v : Word) {i i' : Index} {j j' : Fin 8} (h : i = i' → j ≠ j') :
    valueWord ((s.setReg i (setValueWord (s.reg i) j v)).reg i') j' = valueWord (s.reg i') j' := by
  by_cases hi : i = i'
  · subst hi
    rw [State.reg_setReg_self, valueWord_setValueWord_other _ _ (h rfl)]
  · rw [State.reg_setReg_other _ _ hi]

/-- Settles O54: an operand word lies in one register at one place, so another word lies elsewhere. -/
theorem operandWordWriteThenRead : Obligations.OperandWordWriteThenRead := by
  intro s v i j i' j' hb hi hj hi' hj' a a' t
  have ht : t = (s.setReg (BitVec.ofNat 4 i) (setValueWord (s.reg (BitVec.ofNat 4 i)) ⟨j, hj⟩ v)).respond
      (.write .okay) := by
    rw [← writeEffect_operand_of_not_busy hb]
    exact memWrite_of_some (target_operand hi hj)
  have hbt : t.busy = false := by rw [ht]; exact hb
  refine ⟨?same, fun hne => ?other, by rw [ht]; rfl⟩
  case same =>
    rw [memRead_operand_of_not_busy hbt hi hj, State.respond_portAnswer, ht, State.reg_respond, State.reg_setReg_self,
      valueWord_setValueWord]
  case other =>
    have hplace : BitVec.ofNat 4 i = BitVec.ofNat 4 i' → (⟨j, hj⟩ : Fin 8) ≠ ⟨j', hj'⟩ := by
      intro hii hjj
      have hval := congrArg BitVec.toNat hii
      rw [BitVec.toNat_ofNat, BitVec.toNat_ofNat, Nat.mod_eq_of_lt hi, Nat.mod_eq_of_lt hi'] at hval
      exact hne (Prod.ext hval (Fin.val_eq_of_eq hjj))
    rw [memRead_operand_of_not_busy hbt hi' hj', memRead_operand_of_not_busy hb hi' hj', State.respond_portAnswer,
      State.respond_portAnswer, ht, State.reg_respond, valueWord_reg_setReg_other s v hplace]

/-- Byte t of word j is byte 4 j + t of the register. -/
theorem wordByte_valueWord (v : Value) (j : Fin 8) {t : Nat} (ht : t < 4) :
    wordByte (valueWord v j) t = valueByte v (4 * j.val + t) := by
  have hj := j.isLt
  ext k hk
  simp only [wordByte, valueWord, valueByte, BitVec.getElem_extractLsb', BitVec.getLsbD_extractLsb']
  rw [decide_eq_true (by omega), Bool.true_and]
  congr 1
  omega

/-- The bytes of a register count from the most significant. -/
theorem toNat_valueByte (v : Value) {t : Nat} (ht : t < 32) : (valueByte v t).toNat = v.toNat / 256 ^ (31 - t) % 256 := by
  have hpow : 2 ^ (248 - 8 * t) = 256 ^ (31 - t) := by
    rw [show 248 - 8 * t = 8 * (31 - t) by omega, Nat.pow_mul]
  rw [valueByte, BitVec.extractLsb'_toNat, Nat.shiftRight_eq_div_pow, hpow]

/-- Settles O55. -/
theorem windowIsBigEndian : Obligations.WindowIsBigEndian := by
  intro s i j t hb hi hj ht
  have hbyte := wordByte_valueWord (s.reg (BitVec.ofNat 4 i)) ⟨j, hj⟩ ht
  refine ⟨_, congrArg State.portAnswer (memRead_operand_of_not_busy hb hi hj), hbyte, ?_⟩
  rw [hbyte, toNat_valueByte _ (by omega)]

end Sys2Proof.Machine

/-! SUPPORT. The fields of a command word: a word is its fields (R90), a row of R93 puts a limit on each, and a command
stands at one row. -/

namespace Sys2Proof

/-- The six fields leave out no bit of a word (R90). -/
theorem fields_append (w : Word) :
    opField w ++ rdField w ++ raField w ++ rbField w ++ rcField w ++ zeroField w = w := by
  have hjoin (start len len' : Nat) :
      w.extractLsb' (start + len) len' ++ w.extractLsb' start len = w.extractLsb' start (len' + len) :=
    BitVec.extractLsb'_append_extractLsb'_eq_extractLsb' rfl
  calc opField w ++ rdField w ++ raField w ++ rbField w ++ rcField w ++ zeroField w
      = w.extractLsb' 0 32 := by
        simp only [opField, rdField, raField, rbField, rcField, zeroField]
        rw [hjoin 20 4 8, hjoin 16 4 12, hjoin 12 4 16, hjoin 8 4 20, hjoin 0 8 24]
    _ = w := BitVec.extractLsb'_eq_self

/-- Two words are equal when their fields are. -/
theorem word_eq_iff {v w : Word} :
    v = w ↔ opField v = opField w ∧ rdField v = rdField w ∧ raField v = raField w ∧ rbField v = rbField w ∧
      rcField v = rcField w ∧ zeroField v = zeroField w := by
  constructor
  · rintro rfl
    exact ⟨rfl, rfl, rfl, rfl, rfl, rfl⟩
  · rintro ⟨hop, hrd, hra, hrb, hrc, hzero⟩
    rw [← fields_append v, ← fields_append w, hop, hrd, hra, hrb, hrc, hzero]

/-- A field is a quotient of the word as a number. -/
theorem extractLsb'_eq_ofNat_div (w : Word) (start len : Nat) :
    w.extractLsb' start len = BitVec.ofNat len (w.toNat / 2 ^ start) := by
  rw [BitVec.extractLsb', Nat.shiftRight_eq_div_pow]

theorem toNat_opField (w : Word) : (opField w).toNat = w.toNat / 2 ^ 24 := by
  have hw := w.isLt
  rw [opField, extractLsb'_eq_ofNat_div, BitVec.toNat_ofNat]
  omega

theorem zeroField_eq_zero_iff (w : Word) : zeroField w = 0#8 ↔ w.toNat % 2 ^ 8 = 0 := by
  rw [zeroField, extractLsb'_eq_ofNat_div, ← BitVec.toNat_inj, BitVec.toNat_ofNat, pow_zero, Nat.div_one]
  rfl

/-- A field of the bits two words share is what the fields share. -/
theorem field_and (v w : Word) :
    opField (v &&& w) = opField v &&& opField w ∧ rdField (v &&& w) = rdField v &&& rdField w ∧
      raField (v &&& w) = raField v &&& raField w ∧ rbField (v &&& w) = rbField v &&& rbField w ∧
      rcField (v &&& w) = rcField v &&& rcField w ∧ zeroField (v &&& w) = zeroField v &&& zeroField w :=
  ⟨BitVec.extractLsb'_and, BitVec.extractLsb'_and, BitVec.extractLsb'_and, BitVec.extractLsb'_and,
    BitVec.extractLsb'_and, BitVec.extractLsb'_and⟩

namespace Spec

/-- A field the row does not use (R91). -/
def Kind.isUnused : Kind → Bool
  | .unused => true
  | _ => false

/-- A field that starts a triple (R24). -/
def Kind.isPoint : Kind → Bool
  | .point => true
  | _ => false

/-- A field that starts a pair (R25). -/
def Kind.isPair : Kind → Bool
  | .pair => true
  | _ => false

theorem Kind.allows_iff (k : Kind) (f : Index) :
    k.allows f ↔ (k.isUnused → f = 0#4) ∧ (k.isPoint → f.toNat ≤ 13) ∧ (k.isPair → f.toNat ≤ 14) := by
  cases k <;> simp [Kind.allows, Kind.isUnused, Kind.isPoint, Kind.isPair, ← BitVec.toNat_inj]

/-- What a row leaves of a field: nothing of an unused one (R91). -/
def Kind.keep (k : Kind) (f : Index) : Index := if k.isUnused then 0#4 else f

theorem Kind.keep_eq_self_iff (k : Kind) (f : Index) : k.keep f = f ↔ (k.isUnused → f = 0#4) := by
  cases k <;> simp [Kind.keep, Kind.isUnused, eq_comm (a := 0#4)]

/-- The bits of a field that the `mask` column has (R93): all of an unused one. -/
def Kind.mask (k : Kind) : Index := if k.isUnused then BitVec.allOnes 4 else 0#4

theorem Kind.and_mask_eq_zero_iff (k : Kind) (f : Index) : f &&& k.mask = 0#4 ↔ (k.isUnused → f = 0#4) := by
  cases k <;> simp only [Kind.mask, Kind.isUnused, Bool.false_eq_true, if_true, if_false, BitVec.and_allOnes,
    BitVec.and_zero, true_implies, false_implies]

/-- The fields of a word, each with the kind the row gives it. -/
def Row.fields (r : Row) (w : Word) : List (Kind × Index) :=
  [(r.rd, rdField w), (r.ra, raField w), (r.rb, rbField w), (r.rc, rcField w)]

/-- The word's fields keep the row's limits (R96 c to e). -/
def Row.admits (r : Row) (w : Word) : Prop := ∀ x ∈ r.fields w, x.1.allows x.2

/-- The word's fields that the row does not use are 0 (R96 c). -/
def Row.unusedZero (r : Row) (w : Word) : Prop := ∀ x ∈ r.fields w, x.1.isUnused → x.2 = 0#4

/-- The word's fields of some kinds. -/
def Row.fieldsOf (r : Row) (kinds : Kind → Bool) (w : Word) : List Index :=
  ((r.fields w).filter fun x => kinds x.1).map Prod.snd

theorem Row.admits_iff (r : Row) (w : Word) :
    r.admits w ↔ r.rd.allows (rdField w) ∧ r.ra.allows (raField w) ∧ r.rb.allows (rbField w) ∧
      r.rc.allows (rcField w) := by
  simp [Row.admits, Row.fields]

theorem Row.unusedZero_iff (r : Row) (w : Word) :
    r.unusedZero w ↔ (r.rd.isUnused → rdField w = 0#4) ∧ (r.ra.isUnused → raField w = 0#4) ∧
      (r.rb.isUnused → rbField w = 0#4) ∧ (r.rc.isUnused → rcField w = 0#4) := by
  simp [Row.unusedZero, Row.fields]

theorem Row.unusedZero_of_admits {r : Row} {w : Word} (h : r.admits w) : r.unusedZero w :=
  fun x hx => ((x.1.allows_iff x.2).mp (h x hx)).1

theorem Row.forall_mem_fieldsOf {r : Row} {kinds : Kind → Bool} {w : Word} {P : Index → Prop} :
    (∀ f ∈ r.fieldsOf kinds w, P f) ↔ ∀ x ∈ r.fields w, kinds x.1 → P x.2 := by
  simp only [Row.fieldsOf, List.forall_mem_map, List.mem_filter, and_imp]

/-- The decoder's checks of a row are the row's limits. -/
theorem Row.admits_iff_fieldsOf (r : Row) (w : Word) :
    r.admits w ↔ (∀ f ∈ r.fieldsOf Kind.isUnused w, f = 0#4) ∧ (∀ f ∈ r.fieldsOf Kind.isPoint w, f.toNat ≤ 13) ∧
      (∀ f ∈ r.fieldsOf Kind.isPair w, f.toNat ≤ 14) := by
  simp only [Row.admits, Kind.allows_iff, Row.forall_mem_fieldsOf, forall_and]

/-- The rows have distinct `op` values (R95). -/
theorem row_eq_of_op_eq {r r' : Row} (h : r ∈ rows) (h' : r' ∈ rows) (hop : r.op = r'.op) : r = r' :=
  List.inj_on_of_nodup_map (f := Row.op) (by decide) h h' hop

end Spec

open Spec

/-- The row of the command: the constructors stand in the order of R93, as `map_row_tableCommands` checks. -/
def Instr.row (i : Instr) : Row := rows.getD i.ctorIdx (.mk 0 .unused .unused .unused .unused)

/-- The command of the same row with the fields of the word `w` for its operands. -/
def Instr.withFieldsOf (i : Instr) (w : Word) : Instr :=
  match i with
  | .nop => .nop
  | .fadd _ _ _ => .fadd (rdField w) (raField w) (rbField w)
  | .fsub _ _ _ => .fsub (rdField w) (raField w) (rbField w)
  | .fmul _ _ _ => .fmul (rdField w) (raField w) (rbField w)
  | .fsqr _ _ => .fsqr (rdField w) (raField w)
  | .finv _ _ => .finv (rdField w) (raField w)
  | .nadd _ _ _ => .nadd (rdField w) (raField w) (rbField w)
  | .nsub _ _ _ => .nsub (rdField w) (raField w) (rbField w)
  | .nmul _ _ _ => .nmul (rdField w) (raField w) (rbField w)
  | .nsqr _ _ => .nsqr (rdField w) (raField w)
  | .ninv _ _ => .ninv (rdField w) (raField w)
  | .nred _ _ => .nred (rdField w) (raField w)
  | .nrand _ => .nrand (rdField w)
  | .pdbl _ _ => .pdbl (rdField w) (raField w)
  | .padd _ _ _ => .padd (rdField w) (raField w) (rbField w)
  | .pmul _ _ _ => .pmul (rdField w) (raField w) (rbField w)
  | .pchk _ => .pchk (raField w)
  | .paff _ _ => .paff (rdField w) (raField w)
  | .pdec _ _ => .pdec (rdField w) (raField w)
  | .penc _ _ => .penc (rdField w) (raField w)
  | .keygen _ => .keygen (rdField w)
  | .sign _ _ _ => .sign (rdField w) (raField w) (rbField w)
  | .verify _ _ _ => .verify (raField w) (rbField w) (rcField w)

/-- One command of each row, in the order of R93. -/
def tableCommands : List Instr :=
  [.nop, .fadd 0 0 0, .fsub 0 0 0, .fmul 0 0 0, .fsqr 0 0, .finv 0 0, .nadd 0 0 0, .nsub 0 0 0, .nmul 0 0 0, .nsqr 0 0,
    .ninv 0 0, .nred 0 0, .nrand 0, .pdbl 0 0, .padd 0 0 0, .pmul 0 0 0, .pchk 0, .paff 0 0, .pdec 0 0, .penc 0 0,
    .keygen 0, .sign 0 0 0, .verify 0 0 0]

section Commands

variable (i : Instr) (w : Word)

theorem map_row_tableCommands : tableCommands.map Instr.row = rows := rfl

theorem withFieldsOf_zero_mem_tableCommands : i.withFieldsOf 0#32 ∈ tableCommands := by
  cases i <;> simp [tableCommands, Instr.withFieldsOf, rdField, raField, rbField, rcField]

@[simp] theorem row_withFieldsOf : (i.withFieldsOf w).row = i.row := by cases i <;> rfl

@[simp] theorem mnemonic_withFieldsOf : (i.withFieldsOf w).mnemonic = i.mnemonic := by cases i <;> rfl

@[simp] theorem rowMatch_withFieldsOf : rowMatch (i.withFieldsOf w) = rowMatch i := by cases i <;> rfl

@[simp] theorem rowMask_withFieldsOf : rowMask (i.withFieldsOf w) = rowMask i := by cases i <;> rfl

theorem row_mem_rows : i.row ∈ rows := by
  rw [← map_row_tableCommands, ← row_withFieldsOf i 0#32]
  exact List.mem_map_of_mem (withFieldsOf_zero_mem_tableCommands i)

theorem row_op_lt : i.row.op < 2 ^ 8 := (show ∀ r ∈ rows, r.op < 2 ^ 8 by decide) _ (row_mem_rows i)

theorem ofNat_row_op_eq_opField_iff : BitVec.ofNat 8 i.row.op = opField w ↔ (opField w).toNat = i.row.op := by
  rw [← BitVec.toNat_inj, BitVec.toNat_ofNat, Nat.mod_eq_of_lt (row_op_lt i), eq_comm]

theorem exists_row_eq {r : Row} (h : r ∈ rows) : ∃ i : Instr, i.row = r := by
  rw [← map_row_tableCommands] at h
  obtain ⟨i, -, hi⟩ := List.mem_map.mp h
  exact ⟨i, hi⟩

/-- A mnemonic is one row of R93 (R97). -/
theorem withFieldsOf_eq_of_mnemonic_eq {i j : Instr} (h : i.mnemonic = j.mnemonic) :
    i.withFieldsOf 0#32 = j.withFieldsOf 0#32 := by
  refine List.inj_on_of_nodup_map (f := Instr.mnemonic) (by simp [tableCommands, Instr.mnemonic])
    (withFieldsOf_zero_mem_tableCommands i) (withFieldsOf_zero_mem_tableCommands j) ?_
  rw [mnemonic_withFieldsOf, mnemonic_withFieldsOf, h]

/-- The word of a command is the row's opcode and the fields the row uses (R90, R91, R93). -/
theorem encode_withFieldsOf :
    encode (i.withFieldsOf w) = wordOf (BitVec.ofNat 8 i.row.op) (i.row.rd.keep (rdField w)) (i.row.ra.keep (raField w))
      (i.row.rb.keep (rbField w)) (i.row.rc.keep (rcField w)) := by
  cases i <;> rfl

@[simp] theorem withFieldsOf_encode : i.withFieldsOf (encode i) = i := by
  cases i <;> simp [encode, Instr.withFieldsOf, fields_of_word]

/-- A word is a command's of the row, whatever its indices, when its opcode is the row's and the rest of it that the row
does not use is 0. -/
theorem encode_withFieldsOf_eq_iff :
    encode (i.withFieldsOf w) = w ↔ zeroField w = 0#8 ∧ (opField w).toNat = i.row.op ∧ i.row.unusedZero w := by
  rw [encode_withFieldsOf, word_eq_iff]
  simp only [fields_of_word, Kind.keep_eq_self_iff, ofNat_row_op_eq_opField_iff, eq_comm (b := zeroField w),
    Row.unusedZero_iff]
  tauto

/-- A command is well formed when its word keeps the limits of its row (R96 d and e). -/
theorem wellFormed_iff : i.wellFormed = true ↔ i.row.admits (encode i) := by
  rw [Row.admits_iff]
  cases i <;> simp [Instr.wellFormed, Instr.row, Instr.ctorIdx, rows, Kind.allows, encode, fields_of_word,
    pointIndexOk, pairIndexOk, and_assoc]

/-- The `match` column has the opcode of the row and no other bit. -/
theorem rowMatch_eq_wordOf : rowMatch i = wordOf (BitVec.ofNat 8 i.row.op) 0#4 0#4 0#4 0#4 := by
  have htable : ∀ k ∈ tableCommands, rowMatch k = wordOf (BitVec.ofNat 8 k.row.op) 0#4 0#4 0#4 0#4 := by decide
  simpa using htable _ (withFieldsOf_zero_mem_tableCommands i)

/-- The `mask` column has the opcode, the unused fields and the zero byte. -/
theorem fields_rowMask :
    opField (rowMask i) = BitVec.allOnes 8 ∧ rdField (rowMask i) = i.row.rd.mask ∧ raField (rowMask i) = i.row.ra.mask ∧
      rbField (rowMask i) = i.row.rb.mask ∧ rcField (rowMask i) = i.row.rc.mask ∧
      zeroField (rowMask i) = BitVec.allOnes 8 := by
  have htable : ∀ k ∈ tableCommands,
      opField (rowMask k) = BitVec.allOnes 8 ∧ rdField (rowMask k) = k.row.rd.mask ∧
        raField (rowMask k) = k.row.ra.mask ∧ rbField (rowMask k) = k.row.rb.mask ∧
        rcField (rowMask k) = k.row.rc.mask ∧ zeroField (rowMask k) = BitVec.allOnes 8 := by decide
  simpa using htable _ (withFieldsOf_zero_mem_tableCommands i)

end Commands

end Sys2Proof

/-! SUPPORT. The decoder, once: it finds the row by the opcode and checks the row's fields, so what decodes is exactly
the words of the well-formed commands (R93, R95, R96). -/

namespace Sys2Proof

open Spec

theorem decodeRow_eq_ok_iff {unused points pairs : List Index} {i j : Instr} :
    decodeRow unused points pairs i = .ok j ↔
      ((∀ f ∈ unused, f = 0#4) ∧ (∀ f ∈ points, f.toNat ≤ 13) ∧ ∀ f ∈ pairs, f.toNat ≤ 14) ∧ i = j := by
  have hunused : unused.any (· != 0#4) = true ↔ ¬ ∀ f ∈ unused, f = 0#4 := by simp
  have hpoints : points.any (fun k => 13 < k.toNat) = true ↔ ¬ ∀ f ∈ points, f.toNat ≤ 13 := by simp
  have hpairs : pairs.any (fun k => 14 < k.toNat) = true ↔ ¬ ∀ f ∈ pairs, f.toNat ≤ 14 := by simp
  simp only [decodeRow, hunused, hpoints, hpairs]
  split_ifs with hu hp hq
  · exact ⟨fun h => ⟨⟨hu, hp, hq⟩, Except.ok.inj h⟩, fun ⟨_, h⟩ => congrArg _ h⟩
  · exact ⟨nofun, fun ⟨⟨_, _, h⟩, _⟩ => hq h⟩
  · exact ⟨nofun, fun ⟨⟨_, h, _⟩, _⟩ => hp h⟩
  · exact ⟨nofun, fun ⟨⟨h, _, _⟩, _⟩ => hu h⟩

/-- At the opcode of a row the decoder checks the row's fields and reads the row's command. -/
theorem decode_of_op {w : Word} {i : Instr} (hzero : zeroField w = 0#8) (hop : (opField w).toNat = i.row.op) :
    decode w = decodeRow (i.row.fieldsOf Kind.isUnused w) (i.row.fieldsOf Kind.isPoint w)
      (i.row.fieldsOf Kind.isPair w) (i.withFieldsOf w) := by
  unfold decode
  rw [if_neg (not_not_intro hzero), hop]
  cases i <;> rfl

theorem decode_eq_ok_iff_of_op {w : Word} {i j : Instr} (hzero : zeroField w = 0#8)
    (hop : (opField w).toNat = i.row.op) : decode w = .ok j ↔ i.row.admits w ∧ i.withFieldsOf w = j := by
  rw [decode_of_op hzero hop, decodeRow_eq_ok_iff, ← Row.admits_iff_fieldsOf]

/-- At an opcode of no row the decoder refuses the word (R96 a). -/
theorem decode_of_no_row {w : Word} (hzero : zeroField w = 0#8) (hop : ∀ r ∈ rows, r.op ≠ (opField w).toNat) :
    decode w = .error .opcode := by
  unfold decode
  rw [if_neg (not_not_intro hzero)]
  simp only [rows, List.forall_mem_cons] at hop
  split
  case h_24 => rfl
  all_goals simp_all

/-- A word that decodes has a zero byte and the opcode of a row (R96 a and b). -/
theorem exists_row_of_decode_eq_ok {w : Word} {j : Instr} (h : decode w = .ok j) :
    zeroField w = 0#8 ∧ ∃ i : Instr, (opField w).toNat = i.row.op := by
  have hzero : zeroField w = 0#8 := by
    by_contra hne
    rw [show decode w = .error .zeroByte from if_pos hne] at h
    cases h
  refine ⟨hzero, ?_⟩
  by_contra hno
  rw [decode_of_no_row hzero] at h
  · cases h
  · intro r hr hop
    obtain ⟨i, rfl⟩ := exists_row_eq hr
    exact hno ⟨i, hop.symm⟩

/-- A word decodes to a command exactly when it is the command's word and keeps the limits of the row. -/
theorem decode_eq_ok_iff {w : Word} {i : Instr} : decode w = .ok i ↔ encode i = w ∧ i.row.admits w := by
  constructor
  · intro h
    obtain ⟨hzero, k, hop⟩ := exists_row_of_decode_eq_ok h
    obtain ⟨hadmits, rfl⟩ := (decode_eq_ok_iff_of_op hzero hop).mp h
    rw [row_withFieldsOf]
    exact ⟨(encode_withFieldsOf_eq_iff k w).mpr ⟨hzero, hop, Row.unusedZero_of_admits hadmits⟩, hadmits⟩
  · rintro ⟨rfl, hadmits⟩
    obtain ⟨hzero, hop, -⟩ := (encode_withFieldsOf_eq_iff i (encode i)).mp (by rw [withFieldsOf_encode])
    exact (decode_eq_ok_iff_of_op hzero hop).mpr ⟨hadmits, withFieldsOf_encode i⟩

/-- Settles O1: the word of a well-formed command keeps the limits of its row. -/
theorem decodeOfEncode : Obligations.DecodeOfEncode :=
  fun i hi => decode_eq_ok_iff.mpr ⟨rfl, (wellFormed_iff i).mp hi⟩

/-- Settles O2: what the decoder reads is the fields of the word, and none it drops is other than 0. -/
theorem encodeOfDecode : Obligations.EncodeOfDecode := by
  intro w i h
  obtain ⟨rfl, hadmits⟩ := decode_eq_ok_iff.mp h
  exact ⟨rfl, (wellFormed_iff i).mpr hadmits⟩

end Sys2Proof

/-! SUPPORT. The `mask` and `match` columns of R93, and the illegal words of R96. -/

namespace Sys2Proof

open Spec

/-- The bits under the mask are the row's match exactly for the words of the row's commands, legal or not (R93). -/
theorem and_rowMask_eq_rowMatch_iff (i : Instr) (w : Word) :
    w &&& rowMask i = rowMatch i ↔ encode (i.withFieldsOf w) = w := by
  rw [encode_withFieldsOf_eq_iff, rowMatch_eq_wordOf, word_eq_iff]
  simp only [field_and, fields_rowMask, fields_of_word, BitVec.and_allOnes, Kind.and_mask_eq_zero_iff,
    eq_comm (a := opField w), ofNat_row_op_eq_opField_iff, Row.unusedZero_iff]
  tauto

/-- Settles O3: the commands of one mnemonic share the row, and the command read at the row from a word of the row has
that word. -/
theorem maskMatchSelectsRow : Obligations.MaskMatchSelectsRow := by
  intro w i
  constructor
  · intro h
    exact ⟨i.withFieldsOf w, mnemonic_withFieldsOf i w, (and_rowMask_eq_rowMatch_iff i w).mp h⟩
  · rintro ⟨j, hname, rfl⟩
    have hrow := withFieldsOf_eq_of_mnemonic_eq hname
    rw [← rowMask_withFieldsOf i 0#32, ← rowMatch_withFieldsOf i 0#32, ← hrow, rowMask_withFieldsOf,
      rowMatch_withFieldsOf, and_rowMask_eq_rowMatch_iff, withFieldsOf_encode]

/-- The legal words: the zero byte is 0 and the fields keep the limits of the row of the opcode. -/
theorem exists_decode_eq_ok_iff (w : Word) :
    (∃ i, decode w = .ok i) ↔ zeroField w = 0#8 ∧ ∃ r ∈ rows, r.op = (opField w).toNat ∧ r.admits w := by
  constructor
  · rintro ⟨j, h⟩
    obtain ⟨hzero, i, hop⟩ := exists_row_of_decode_eq_ok h
    exact ⟨hzero, i.row, row_mem_rows i, hop.symm, ((decode_eq_ok_iff_of_op hzero hop).mp h).1⟩
  · rintro ⟨hzero, r, hr, hop, hadmits⟩
    obtain ⟨i, rfl⟩ := exists_row_eq hr
    exact ⟨_, (decode_eq_ok_iff_of_op hzero hop.symm).mpr ⟨hadmits, rfl⟩⟩

theorem exists_decode_eq_error_iff (w : Word) : (∃ e, decode w = .error e) ↔ ¬ ∃ i, decode w = .ok i := by
  cases decode w <;> simp

/-- An opcode has at most one row, so a word that is not legal breaks a limit of its row if it has one (R95). -/
theorem not_exists_row_admits_iff (op : Nat) (w : Word) :
    (¬ ∃ r ∈ rows, r.op = op ∧ r.admits w) ↔
      (∀ r ∈ rows, r.op ≠ op) ∨ ∃ r ∈ rows, r.op = op ∧ ¬ r.admits w := by
  constructor
  · intro h
    by_cases hop : ∃ r ∈ rows, r.op = op
    · obtain ⟨r, hr, hop⟩ := hop
      exact .inr ⟨r, hr, hop, fun hadmits => h ⟨r, hr, hop, hadmits⟩⟩
    · exact .inl fun r hr hro => hop ⟨r, hr, hro⟩
  · rintro (hno | ⟨r, hr, hop, hbreaks⟩) ⟨r', hr', hop', hadmits⟩
    · exact hno r' hr' hop'
    · rw [row_eq_of_op_eq hr' hr (hop'.trans hop.symm)] at hadmits
      exact hbreaks hadmits

/-- Settles O4: (b) is the zero byte, (a) an opcode of no row, (c) to (e) a limit of the row. -/
theorem illegalWordsExactly : Obligations.IllegalWordsExactly := by
  intro w
  rw [exists_decode_eq_error_iff, exists_decode_eq_ok_iff, not_and_or, not_exists_row_admits_iff, toNat_opField,
    zeroField_eq_zero_iff]
  simp only [Row.admits_iff, rdField, raField, rbField, rcField, extractLsb'_eq_ofNat_div]
  exact or_left_comm

/-- Settles O5: the words are fixed, so the decoder runs on each. -/
theorem specWordsDecode : Obligations.SpecWordsDecode := by
  unfold Obligations.SpecWordsDecode
  decide

end Sys2Proof

/-! SUPPORT. The commands in the words of the spec: the word of a command (R90), its sources, and the two completions of
a residue command (R76, R111, R131). -/

namespace Sys2Proof

/-- The word the spec adds up from the fields of the encoding (R90). -/
theorem wordOf_eq_word (op : Nat) (rd ra rb rc : Index) :
    wordOf (BitVec.ofNat 8 op) rd ra rb rc = Spec.word op rd ra rb rc := by
  have hrd := rd.isLt
  have hra := ra.isLt
  have hrb := rb.isLt
  have hrc := rc.isLt
  rw [word_eq_iff]
  simp only [fields_of_word]
  simp only [opField, rdField, raField, rbField, rcField, zeroField, extractLsb'_eq_ofNat_div, ← BitVec.toNat_inj,
    Spec.word, BitVec.toNat_ofNat]
  omega

/-- The word of a well-formed command decodes to the command, so encoding it is enough. -/
theorem isWordOf_of_encode {i : Instr} {w : Word} (hi : i.wellFormed = true) (h : encode i = w) : Spec.isWordOf w i :=
  ⟨h, h ▸ decodeOfEncode i hi⟩

end Sys2Proof

namespace Sys2Proof.Machine

theorem State.toNat_source_of_some {s : State} {h : Hidden} (hs : s.hidden = some h) (i : Index) :
    (s.source i).toNat = Spec.src h i.toNat := by
  rw [State.source_of_some hs, Spec.src, Vector.getElem?_eq_getElem i.isLt, Option.getD_some]

theorem State.raise_eq_fails (s : State) (f : Failure) : s.raise f = Spec.fails s (failureCode f).toNat := by
  cases f <;> rfl

theorem set_eq_put (regs : Vector Value 16) (i : Index) (v : Nat) :
    regs.set i.toNat (BitVec.ofNat 256 v) = Spec.put regs i.toNat v :=
  Vector.ext fun k hk => by rw [Spec.put, Vector.getElem_set, Vector.getElem_setIfInBounds]

theorem State.completeResidue_eq_residue (s : State) (rd : Index) (v : Nat) :
    s.completeResidue rd v = Spec.residue s rd v := by
  rw [Spec.residue, ← set_eq_put]
  rfl

section Residues

variable {m : Nat} {s : State} {h : Hidden} (hs : s.hidden = some h)
include hs

theorem residue2_of_le (f : Nat → Nat → Nat) (rd : Index) {ra rb : Index}
    (hbad : m ≤ Spec.src h ra.toNat ∨ m ≤ Spec.src h rb.toNat) :
    residue2 m f rd ra rb s = .next (Spec.fails s 2) := by
  rw [← State.toNat_source_of_some hs, ← State.toNat_source_of_some hs] at hbad
  rw [residue2, if_pos hbad, State.raise_eq_fails]
  rfl

theorem residue2_of_lt {f : Nat → Nat → Nat} {ra rb : Index} {v : Nat} (rd : Index) (ha : Spec.src h ra.toNat < m)
    (hb : Spec.src h rb.toNat < m) (hv : f (Spec.src h ra.toNat) (Spec.src h rb.toNat) = v) :
    residue2 m f rd ra rb s = .next (Spec.residue s rd v) := by
  rw [← hv, ← State.toNat_source_of_some hs, ← State.toNat_source_of_some hs, ← State.completeResidue_eq_residue]
  rw [← State.toNat_source_of_some hs] at ha hb
  exact if_neg (by omega)

theorem residue1_of_le (f : Nat → Nat) (rd : Index) {ra : Index} (hbad : m ≤ Spec.src h ra.toNat) :
    residue1 m f rd ra s = .next (Spec.fails s 2) := by
  rw [← State.toNat_source_of_some hs] at hbad
  rw [residue1, if_pos hbad, State.raise_eq_fails]
  rfl

theorem residue1_of_lt {f : Nat → Nat} {ra : Index} {v : Nat} (rd : Index) (ha : Spec.src h ra.toNat < m)
    (hv : f (Spec.src h ra.toNat) = v) : residue1 m f rd ra s = .next (Spec.residue s rd v) := by
  rw [← hv, ← State.toNat_source_of_some hs, ← State.completeResidue_eq_residue]
  rw [← State.toNat_source_of_some hs] at ha
  exact if_neg (by omega)

end Residues

theorem residue2_self (m : Nat) (f : Nat → Nat → Nat) (rd ra : Index) (s : State) :
    residue2 m f rd ra ra s = residue1 m (fun a => f a a) rd ra s := by
  simp only [residue2, residue1, or_self]

end Sys2Proof.Machine

/-! SUPPORT. The laws of the modular operations (R117, R119, R141, R142): each is the law of the integers under one
`mod m`; the inverse is Fermat's, so it asks for a prime m. -/

namespace Sys2Proof.Machine

/-- The sum is a + b - m where that is not negative, else a + b (R112). -/
theorem addMod_eq {m a b : Nat} (ha : a < m) (hb : b < m) :
    addMod m a b = if m ≤ a + b then a + b - m else a + b := by
  unfold addMod
  split
  case isTrue h => rw [Nat.mod_eq_sub_mod h, Nat.mod_eq_of_lt (by omega)]
  case isFalse h => exact Nat.mod_eq_of_lt (by omega)

theorem addMod_comm (m a b : Nat) : addMod m a b = addMod m b a := by rw [addMod, addMod, Nat.add_comm]

theorem mulMod_comm (m a b : Nat) : mulMod m a b = mulMod m b a := by rw [mulMod, mulMod, Nat.mul_comm]

theorem addMod_assoc (m a b c : Nat) : addMod m (addMod m a b) c = addMod m a (addMod m b c) := by
  simp only [addMod, Nat.mod_add_mod, Nat.add_mod_mod, Nat.add_assoc]

theorem mulMod_assoc (m a b c : Nat) : mulMod m (mulMod m a b) c = mulMod m a (mulMod m b c) := by
  simp only [mulMod, Nat.mod_mul_mod, Nat.mul_mod_mod, Nat.mul_assoc]

theorem mulMod_addMod (m a b c : Nat) : mulMod m a (addMod m b c) = addMod m (mulMod m a b) (mulMod m a c) := by
  simp only [mulMod, addMod, Nat.mul_mod_mod, Nat.mod_add_mod, Nat.add_mod_mod, Nat.mul_add]

theorem subMod_addMod {m a b : Nat} (ha : a < m) (hb : b < m) : subMod m (addMod m a b) b = a := by
  rw [subMod_eq (addMod_lt (by omega) a b) hb, addMod_eq ha hb]
  split_ifs <;> omega

theorem addMod_subMod_zero {m a : Nat} (ha : a < m) : addMod m a (subMod m 0 a) = 0 := by
  rw [subMod_eq (by omega) ha, addMod_eq ha (by split_ifs <;> omega)]
  split_ifs <;> omega

/-- A value has at most one inverse below m (R116, R136). -/
theorem mulMod_inverse_unique {m a u v : Nat} (hu : u < m) (hv : v < m) (hau : mulMod m a u = 1)
    (hav : mulMod m a v = 1) : u = v := by
  have hone : mulMod m 1 u = u ∧ mulMod m 1 v = v := by simp [mulMod, Nat.mod_eq_of_lt, hu, hv]
  calc u = mulMod m (mulMod m a v) u := by rw [hav, hone.1]
    _ = mulMod m (mulMod m a u) v := by rw [mulMod_assoc, mulMod_comm m v u, ← mulMod_assoc]
    _ = v := by rw [hau, hone.2]

theorem invMod_lt {m : Nat} (hm : m < 2 ^ 256) (hpos : 0 < m) (a : Nat) : invMod m a < m := by
  rw [invMod_eq hm]
  exact Nat.mod_lt _ hpos

theorem invMod_zero {m : Nat} (hm : m < 2 ^ 256) (hm2 : 2 < m) : invMod m 0 = 0 := by
  rw [invMod_eq hm, zero_pow (by omega), Nat.zero_mod]

section Inverse

variable {m a : Nat} (hprime : m.Prime) (hm : m < 2 ^ 256) (ha : a < m)
include hprime hm ha

/-- Fermat: a * a^(m-2) = a^(m-1) is 1 modulo a prime m that does not divide a. -/
theorem mulMod_invMod (h0 : a ≠ 0) : mulMod m a (invMod m a) = 1 := by
  have hcop : Nat.Coprime a m := (Nat.coprime_of_lt_prime h0 ha hprime).symm
  have hexp : m - 2 + 1 = m - 1 := by have := hprime.two_le; omega
  calc mulMod m a (invMod m a) = a ^ (m - 1) % m := by
        rw [mulMod, invMod_eq hm, Nat.mul_mod_mod, ← pow_succ', hexp]
    _ = 1 % m := by
        rw [← Nat.totient_prime hprime]
        exact Nat.ModEq.pow_totient hcop
    _ = 1 := Nat.mod_eq_of_lt hprime.one_lt

theorem invMod_ne_zero (h0 : a ≠ 0) : invMod m a ≠ 0 := fun hz => by
  have hinv := mulMod_invMod hprime hm ha h0
  simp [hz, mulMod] at hinv

/-- a and the inverse of the inverse are both inverse to the inverse. -/
theorem invMod_invMod (hm2 : 2 < m) : invMod m (invMod m a) = a := by
  by_cases h0 : a = 0
  · rw [h0, invMod_zero hm hm2, invMod_zero hm hm2]
  · have hlt := invMod_lt hm hprime.pos
    refine mulMod_inverse_unique (hlt _) ha (mulMod_invMod hprime hm (hlt a) (invMod_ne_zero hprime hm ha h0)) ?_
    rw [mulMod_comm, mulMod_invMod hprime hm ha h0]

end Inverse

theorem two_lt_p : 2 < Config.p := by decide

end Sys2Proof.Machine

/-! SUPPORT. The field commands and their laws (spec/40_field.md R112 to R116, R119), from the two layers above. -/

namespace Sys2Proof.Machine

/-- Settles O32: R119's laws are those of the operations modulo p, and p is prime. -/
theorem fieldLaws : Obligations.FieldLaws := fun _ _ _ ha hb _ =>
  ⟨addMod_comm .., mulMod_comm .., addMod_assoc .., mulMod_assoc .., mulMod_addMod .., subMod_addMod ha hb,
    addMod_subMod_zero ha, mulMod_invMod p_prime p_lt_two_pow ha, invMod_invMod p_prime p_lt_two_pow ha two_lt_p, rfl⟩

/-- Settles O7: with sources below p one conditional correction is the residue. -/
theorem fieldAddSubMulRules : Obligations.FieldAddSubMulRules := by
  intro rd ra rb s h hs a b
  refine ⟨⟨isWordOf_of_encode rfl (wordOf_eq_word ..), isWordOf_of_encode rfl (wordOf_eq_word ..),
    isWordOf_of_encode rfl (wordOf_eq_word ..)⟩, fun hbad => ?_, fun ha hb => ?_⟩
  · exact ⟨residue2_of_le hs _ rd hbad, residue2_of_le hs _ rd hbad, residue2_of_le hs _ rd hbad⟩
  · exact ⟨residue2_of_lt hs rd ha hb (addMod_eq ha hb), residue2_of_lt hs rd ha hb (subMod_eq ha hb),
      residue2_of_lt hs rd ha hb rfl⟩

/-- Settles O8: squaring is the product of the operand by itself, and its check is FMUL's on the one register. -/
theorem fsqrRule : Obligations.FsqrRule := fun rd ra s _ hs =>
  ⟨isWordOf_of_encode rfl (wordOf_eq_word ..), residue1_of_le hs _ rd,
    fun ha => residue1_of_lt hs rd ha rfl, (residue2_self Config.p (mulMod Config.p) rd ra s).symm⟩

/-- Settles O9: Fermat gives the inverse for a ≠ 0, and a second inverse would be the same. -/
theorem finvRule : Obligations.FinvRule := by
  intro rd ra s h hs a
  refine ⟨isWordOf_of_encode rfl (wordOf_eq_word ..), residue1_of_le hs _ rd, fun ha => ?_⟩
  refine ⟨invMod Config.p a, invMod_eq p_lt_two_pow, fun h0 => ?_, fun h0 => ⟨⟨?_, ?_, ?_⟩, ?_⟩, ?_⟩
  · rw [h0, invMod_zero p_lt_two_pow two_lt_p]
  · exact Nat.one_le_iff_ne_zero.mpr (invMod_ne_zero p_prime p_lt_two_pow ha h0)
  · exact invMod_lt p_lt_two_pow p_pos a
  · exact mulMod_invMod p_prime p_lt_two_pow ha h0
  · exact fun u _ hu hau =>
      mulMod_inverse_unique hu (invMod_lt p_lt_two_pow p_pos a) hau (mulMod_invMod p_prime p_lt_two_pow ha h0)
  · exact residue1_of_lt hs rd ha rfl

end Sys2Proof.Machine

/-! SUPPORT. The sampler `NextScalar` (R138, R139), one equation for each thing the loop can find: no draw, a failure of
the source, a rejected value, a value the command takes, a value it asks to be replaced. -/

namespace Sys2Proof.Machine

theorem limitReached_iff_map (limit : Config.DrawLimit) (d : Nat) :
    limitReached limit d = true ↔ limit.map (·.val) = some d := by
  rw [limitReached_iff, Option.map_eq_some_iff]
  exact exists_congr fun k => and_congr_right fun _ => eq_comm

section Sampler

variable {s : State} {h : Hidden} (hs : s.hidden = some h) (limit : Config.DrawLimit)
include hs

/-- The head of the loop in the spec's words: out of draws, or one more draw in phase WAIT. -/
theorem State.drawAgain_eq_drawOrFail : s.drawAgain limit = Spec.drawOrFail limit s h := by
  rw [State.drawAgain, Spec.drawOrFail, State.raise_eq_fails, State.requestDraw, State.held_of_some hs]
  exact if_congr (limitReached_iff_map limit h.draws) rfl rfl

theorem State.nextScalar_of_unavailable (attempt : Value → Option State) (hd : h.drawn = some .unavailable) :
    s.nextScalar limit attempt = Spec.fails s 1 := by
  rw [State.nextScalar, State.held_of_some hs, hd]
  exact State.raise_eq_fails s .randomUnavailable

theorem State.nextScalar_of_rejected (attempt : Value → Option State) {v : Value} (hd : h.drawn = some (.value v))
    (hv : v.toNat = 0 ∨ Config.n ≤ v.toNat) : s.nextScalar limit attempt = Spec.drawOrFail limit s h := by
  have hrej : ¬ drawAccepted v = true := by rw [drawAccepted_iff]; omega
  rw [State.nextScalar, State.held_of_some hs, hd, ← State.drawAgain_eq_drawOrFail hs]
  exact if_neg hrej

/-- The sampler goes back to the head of its loop where no draw is answered and where the answer is rejected. -/
theorem State.nextScalar_of_mustDraw (attempt : Value → Option State) (hd : Spec.mustDraw h) :
    s.nextScalar limit attempt = Spec.drawOrFail limit s h := by
  obtain hnone | ⟨v, hval, hv⟩ := hd
  · rw [State.nextScalar, State.held_of_some hs, hnone]
    exact State.drawAgain_eq_drawOrFail hs limit
  · exact State.nextScalar_of_rejected hs limit attempt hval hv

/-- An accepted value is handed on as it stands; where the command asks for another the loop starts again. -/
theorem State.nextScalar_of_accepted (attempt : Value → Option State) {v : Value} (hd : h.drawn = some (.value v))
    (h1 : 1 ≤ v.toNat) (hn : v.toNat ≤ Config.n - 1) :
    s.nextScalar limit attempt = (attempt v).getD (Spec.drawOrFail limit s h) := by
  have hacc : drawAccepted v = true := (drawAccepted_iff v).2 ⟨h1, Nat.lt_of_le_pred n_pos hn⟩
  rw [State.nextScalar, State.held_of_some hs, hd, ← State.drawAgain_eq_drawOrFail hs]
  dsimp only
  rw [if_pos hacc]
  cases attempt v <;> rfl

end Sampler

/-- Settles O14: the four clauses are the four things the loop can find. -/
theorem samplerRule : Obligations.SamplerRule := fun limit attempt _ _ hs =>
  ⟨State.nextScalar_of_mustDraw hs limit attempt, State.nextScalar_of_unavailable hs limit attempt,
    fun _ _ hd h1 hn ht => by rw [State.nextScalar_of_accepted hs limit attempt hd h1 hn, ht, Option.getD_some],
    fun _ hd h1 hn ht => by rw [State.nextScalar_of_accepted hs limit attempt hd h1 hn, ht, Option.getD_none]⟩

theorem State.setReg_complete_eq_ok (s : State) (rd : Index) (v : Value) :
    (s.setReg rd v).complete flagsClear = Spec.ok s (Spec.put s.regs rd.toNat v.toNat) s.pktag false false false := by
  rw [← set_eq_put, BitVec.ofNat_toNat, BitVec.setWidth_eq]
  rfl

theorem nrandUnder_of_accepts {s : State} {h : Hidden} (hs : s.hidden = some h) (limit : Config.DrawLimit) (rd : Index)
    {v : Nat} (hv : Spec.accepts h v) :
    nrandUnder limit rd s = .next (Spec.ok s (Spec.put s.regs rd.toNat v) s.pktag false false false) := by
  obtain ⟨w, hd, rfl, h1, hn⟩ := hv
  rw [nrandUnder, State.nextScalar_of_accepted hs limit _ hd h1 hn, Option.getD_some, State.setReg_complete_eq_ok]

/-- Settles O15: NRAND is the sampler, and its use of the value never asks for another. -/
theorem nrandRule : Obligations.NrandRule := fun limit rd _ _ hs =>
  ⟨isWordOf_of_encode rfl (wordOf_eq_word ..), rfl,
    fun hd => congrArg _ (State.nextScalar_of_mustDraw hs limit _ hd),
    fun hd => congrArg _ (State.nextScalar_of_unavailable hs limit _ hd),
    fun _ hv => ⟨nrandUnder_of_accepts hs limit rd hv, nrandUnder_of_accepts hs Config.drawLimit rd hv⟩⟩

end Sys2Proof.Machine

/-! SUPPORT. The scalar commands and their laws (spec/41_scalar.md R132 to R137, R142), from the laws of the modular
operations at the prime n. -/

namespace Sys2Proof.Machine

theorem two_lt_n : 2 < Config.n := by decide

theorem reduceN_modEq (a : Nat) : reduceN a ≡ a [MOD Config.n] := Nat.mod_modEq a Config.n

theorem reduceN_of_lt {a : Nat} (ha : a < Config.n) : reduceN a = a := Nat.mod_eq_of_lt ha

theorem reduceN_reduceN (a : Nat) : reduceN (reduceN a) = reduceN a := reduceN_of_lt (Nat.mod_lt a n_pos)

theorem src_lt_two_pow (h : Hidden) (k : Nat) : Spec.src h k < 2 ^ 256 := BitVec.isLt _

/-- n is above 2^255, so one subtraction reduces a register's value (R137). -/
theorem mod_n_of_lt_two_pow {a : Nat} (ha : a < 2 ^ 256) :
    a % Config.n = if Config.n ≤ a then a - Config.n else a := by
  have htwo : 2 ^ 256 ≤ Config.n + Config.n := by decide
  split
  case isTrue hle => rw [Nat.mod_eq_sub_mod hle, Nat.mod_eq_of_lt (by omega)]
  case isFalse hlt => exact Nat.mod_eq_of_lt (not_le.mp hlt)

/-- Settles O33: R119's laws hold modulo the prime n as modulo p, and the reduction is the residue. -/
theorem scalarLaws : Obligations.ScalarLaws :=
  ⟨fun _ _ _ ha hb _ =>
    ⟨addMod_comm .., mulMod_comm .., addMod_assoc .., mulMod_assoc .., mulMod_addMod .., subMod_addMod ha hb,
      addMod_subMod_zero ha, mulMod_invMod n_prime n_lt_two_pow ha, invMod_invMod n_prime n_lt_two_pow ha two_lt_n,
      rfl, reduceN_of_lt ha⟩,
    fun a => ⟨reduceN_reduceN a, reduceN_modEq a⟩⟩

/-- Settles O10: with sources below n one conditional correction is the residue. -/
theorem scalarAddSubMulRules : Obligations.ScalarAddSubMulRules := fun _ _ _ _ _ hs =>
  ⟨⟨isWordOf_of_encode rfl (wordOf_eq_word ..), isWordOf_of_encode rfl (wordOf_eq_word ..),
      isWordOf_of_encode rfl (wordOf_eq_word ..)⟩,
    fun hbad => ⟨residue2_of_le hs _ _ hbad, residue2_of_le hs _ _ hbad, residue2_of_le hs _ _ hbad⟩,
    fun ha hb => ⟨residue2_of_lt hs _ ha hb (addMod_eq ha hb), residue2_of_lt hs _ ha hb (subMod_eq ha hb),
      residue2_of_lt hs _ ha hb rfl⟩⟩

/-- Settles O11: NSQR is the product of the operand by itself under NMUL's check of the one register. -/
theorem nsqrRule : Obligations.NsqrRule := fun rd ra s _ hs =>
  ⟨isWordOf_of_encode rfl (wordOf_eq_word ..), residue1_of_le hs _ rd,
    fun ha => residue1_of_lt hs rd ha rfl, (residue2_self Config.n (mulMod Config.n) rd ra s).symm⟩

/-- Below a prime modulus the inverse of a ≠ 0 is in [1, m), is an inverse, and is the only one (R116, R136). -/
theorem invMod_unique_inverse {m a : Nat} (hprime : m.Prime) (hm : m < 2 ^ 256) (ha : a < m) (h0 : a ≠ 0) :
    (1 ≤ invMod m a ∧ invMod m a < m ∧ a * invMod m a % m = 1) ∧
      ∀ u, 1 ≤ u → u < m → a * u % m = 1 → u = invMod m a := by
  have hlt := invMod_lt hm hprime.pos a
  have hinv := mulMod_invMod hprime hm ha h0
  exact ⟨⟨Nat.one_le_iff_ne_zero.mpr (invMod_ne_zero hprime hm ha h0), hlt, hinv⟩,
    fun _ _ hu hau => mulMod_inverse_unique hu hlt hau hinv⟩

/-- Settles O12: n is prime, so Fermat's power is the inverse; and 0 has the power 0. -/
theorem ninvRule : Obligations.NinvRule := by
  intro rd ra s h hs a
  refine ⟨isWordOf_of_encode rfl (wordOf_eq_word ..), residue1_of_le hs _ rd, fun ha => ?_⟩
  refine ⟨invMod Config.n a, invMod_eq n_lt_two_pow, fun h0 => ?_, fun h0 => ?_, residue1_of_lt hs rd ha rfl⟩
  · rw [h0, invMod_zero n_lt_two_pow two_lt_n]
  · exact invMod_unique_inverse n_prime n_lt_two_pow ha h0

/-- Settles O13: NRED checks nothing, and a register's value is below 2 n. -/
theorem nredRule : Obligations.NredRule := by
  intro rd ra s h hs a
  refine ⟨isWordOf_of_encode rfl (wordOf_eq_word ..), mod_n_of_lt_two_pow (src_lt_two_pow h _), ?_⟩
  calc exec (.nred rd ra) s = .next (s.completeResidue rd (reduceN (s.source ra).toNat)) := rfl
    _ = .next (Spec.residue s rd (a % Config.n)) := by
      rw [State.toNat_source_of_some hs, State.completeResidue_eq_residue, reduceN]

end Sys2Proof.Machine

/-! SUPPORT. The curve engine against Mathlib's group (R153, R158), and the laws of the identity (R163): they hold of
every triple, in range or not, since the special cases of `Dbl` and `Add` come before any arithmetic. -/

namespace Sys2Proof.Machine

/-- Settles O26: `Dbl` reduces every coordinate, and the tangent's slope is its M over 2 Y Z. -/
theorem doublingIsGroupDoubling : Obligations.DoublingIsGroupDoubling :=
  fun t _ ht h => ⟨inRange_dbl t, standsFor_dbl ht h⟩

/-- Settles O27: H and R tell the tangent, the vertical line and the chord apart. -/
theorem additionIsGroupAddition : Obligations.AdditionIsGroupAddition :=
  fun _ _ _ _ ht hu hP hQ => ⟨inRange_add ht hu, standsFor_add ht hu hP hQ⟩

/-- Settles O28, by the loop's invariant: the accumulator holds the multiple by the bits read so far. -/
theorem scalarMulIsGroupMultiple : Obligations.ScalarMulIsGroupMultiple := fun _ _ _ => standsFor_scalarMul

theorem dbl_of_z_eq_zero {t : Triple} (hz : t.z = 0) : dbl t = Triple.identity := if_pos (.inl hz)

theorem add_of_z_eq_zero {t u : Triple} (ht : t.z = 0) (hu : u.z = 0) : add t u = Triple.identity := if_pos ⟨ht, hu⟩

theorem add_of_left_z_eq_zero {t u : Triple} (ht : t.z = 0) (hu : u.z ≠ 0) : add t u = u := by
  rw [add, if_neg (hu ·.2), if_pos ht]

theorem add_of_right_z_eq_zero {t u : Triple} (ht : t.z ≠ 0) (hu : u.z = 0) : add t u = t := by
  rw [add, if_neg (ht ·.1), if_neg ht, if_pos hu]

/-- The turns above the highest bit of k leave the identity (R158). -/
theorem scalarMulFrom_identity_of_lt {k i : Nat} (hk : k < 2 ^ i) (t : Triple) :
    ∀ m, scalarMulFrom k t (i + m) Triple.identity = scalarMulFrom k t i Triple.identity
  | 0 => rfl
  | m + 1 => by
    have hbit : k.testBit (i + m) = false :=
      Nat.testBit_lt_two_pow (hk.trans_le (Nat.pow_le_pow_right two_pos (Nat.le_add_right i m)))
    rw [← Nat.add_assoc, scalarMulFrom, hbit, dbl_of_z_eq_zero rfl]
    exact scalarMulFrom_identity_of_lt hk t m

theorem scalarMul_of_lt {k i : Nat} (hk : k < 2 ^ i) (hi : i ≤ 256) (t : Triple) :
    scalarMul k t = scalarMulFrom k t i Triple.identity := by
  rw [scalarMul, ← Nat.add_sub_of_le hi, scalarMulFrom_identity_of_lt hk]

theorem scalarMul_zero (t : Triple) : scalarMul 0 t = Triple.identity := by
  rw [scalarMul_of_lt (i := 0) (by decide) (by decide), scalarMulFrom]

theorem scalarMul_one (t : Triple) : scalarMul 1 t = add Triple.identity t := by
  rw [scalarMul_of_lt (i := 1) (by decide) (by decide), scalarMulFrom, scalarMulFrom, dbl_of_z_eq_zero rfl,
    if_pos (by decide)]

/-- Adding the canonical identity keeps the point, though not its triple where Z = 0. -/
theorem aff_add_identity (t : Triple) : aff (add Triple.identity t) = aff t := by
  by_cases hz : t.z = 0
  · rw [add_of_z_eq_zero rfl hz, aff_of_z_eq_zero rfl, aff_of_z_eq_zero hz]
  · rw [add_of_left_z_eq_zero rfl hz]

/-- Settles O31: only the turn of the highest bit of k ends with more than the identity. -/
theorem pointEngineLaws : Obligations.PointEngineLaws := fun t _ hu =>
  ⟨by rw [scalarMul_zero, aff_of_z_eq_zero rfl], by rw [scalarMul_one, aff_add_identity],
    fun ht => ⟨add_of_right_z_eq_zero ht hu, add_of_left_z_eq_zero hu ht⟩, fun ht => add_of_z_eq_zero ht hu,
    dbl_of_z_eq_zero hu⟩

end Sys2Proof.Machine

/-! SUPPORT. The curve engine against the spec's formulas over exact integers (R152 to R162): a chain of field
operations and its integer formula have one class modulo p, and a FieldElement is the representative of its class
(R117). -/

namespace Sys2Proof.Machine

theorem intCast_eq_zero_iff (v : ℤ) : (v : ZMod Config.p) = 0 ↔ v % (Config.p : ℤ) = 0 := by
  rw [ZMod.intCast_zmod_eq_zero_iff_dvd, Int.dvd_iff_emod_eq_zero]

theorem eq_mod_of_cast {a : Nat} {v : ℤ} (ha : a < Config.p) (h : (a : ZMod Config.p) = v) :
    a = Spec.mod v Config.p := by
  rw [← Int.cast_natCast, ZMod.intCast_eq_intCast_iff'] at h
  rw [Spec.mod, ← h, Int.emod_eq_of_lt (Int.natCast_nonneg a) (Int.ofNat_lt.mpr ha), Int.toNat_natCast]

theorem eq_zero_iff_of_cast {a : Nat} {v : ℤ} (ha : a < Config.p) (h : (a : ZMod Config.p) = v) :
    a = 0 ↔ v % (Config.p : ℤ) = 0 := by
  rw [← cast_eq_zero ha, h, intCast_eq_zero_iff]

theorem triple_eq_mod_of_cast {x y z : Nat} {X Y Z : ℤ} (hx : x < Config.p) (hy : y < Config.p) (hz : z < Config.p)
    (hX : (x : ZMod Config.p) = X) (hY : (y : ZMod Config.p) = Y) (hZ : (z : ZMod Config.p) = Z) :
    (⟨x, y, z⟩ : Triple) = ⟨Spec.mod X Config.p, Spec.mod Y Config.p, Spec.mod Z Config.p⟩ := by
  rw [← eq_mod_of_cast hx hX, ← eq_mod_of_cast hy hY, ← eq_mod_of_cast hz hZ]

/-- R152 over exact integers. -/
theorem dbl_eq_spec (t : Triple) : dbl t = Spec.dbl t := by
  refine if_congr Iff.rfl rfl (triple_eq_mod_of_cast (fsub_lt _ _) (fsub_lt _ _) (fmul_lt _ _) ?_ ?_ ?_)
  all_goals
    simp only [cast_fmul, cast_fsqr, cast_fadd, cast_fsub _ (fmul_lt _ _), cast_fsub _ (fsqr_lt _),
      cast_fsub _ (fsub_lt _ _)]
    push_cast
    ring

/-- The general case of R154 over exact integers. -/
theorem addGeneral_eq_mod {u1 s1 h r : Nat} {U1 S1 H R : ℤ} (z1 z2 : Nat) (hu : (u1 : ZMod Config.p) = U1)
    (hs : (s1 : ZMod Config.p) = S1) (hh : (h : ZMod Config.p) = H) (hr : (r : ZMod Config.p) = R) :
    addGeneral u1 s1 h r z1 z2 =
      let X3 := R ^ 2 - H ^ 3 - 2 * U1 * H ^ 2
      ⟨Spec.mod X3 Config.p, Spec.mod (R * (U1 * H ^ 2 - X3) - S1 * H ^ 3) Config.p,
        Spec.mod (H * z1 * z2) Config.p⟩ := by
  refine triple_eq_mod_of_cast (fsub_lt _ _) (fsub_lt _ _) (fmul_lt _ _) ?_ ?_ ?_
  all_goals
    simp only [cast_fmul, cast_fsqr, cast_fsub _ (fmul_lt _ _), cast_fsub _ (fsub_lt _ _), hu, hs, hh, hr]
    push_cast
    ring

theorem cast_mul_z_pow_two (x z : Nat) :
    ((fmul x (fsqr z) : ℕ) : ZMod Config.p) = ((x * z ^ 2 : ℤ) : ZMod Config.p) := by
  rw [cast_fmul, cast_fsqr]
  push_cast
  rfl

theorem cast_mul_z_pow_three (y z : Nat) :
    ((fmul y (fmul (fsqr z) z) : ℕ) : ZMod Config.p) = ((y * z ^ 3 : ℤ) : ZMod Config.p) := by
  rw [cast_fmul, cast_fmul, cast_fsqr]
  push_cast
  ring

theorem cast_fsub_of_cast {a b : Nat} {v w : ℤ} (hb : b < Config.p) (hv : (a : ZMod Config.p) = v)
    (hw : (b : ZMod Config.p) = w) : ((fsub a b : ℕ) : ZMod Config.p) = ((v - w : ℤ) : ZMod Config.p) := by
  rw [cast_fsub a hb, hv, hw, Int.cast_sub]

/-- R154 over exact integers: H and R are 0 modulo p exactly where the engine finds 0. -/
theorem add_eq_spec (t u : Triple) : add t u = Spec.add t u := by
  have hH := cast_fsub_of_cast (fmul_lt _ _) (cast_mul_z_pow_two u.x t.z) (cast_mul_z_pow_two t.x u.z)
  have hR := cast_fsub_of_cast (fmul_lt _ _) (cast_mul_z_pow_three u.y t.z) (cast_mul_z_pow_three t.y u.z)
  have hH0 := eq_zero_iff_of_cast (fsub_lt _ _) hH
  have hR0 := eq_zero_iff_of_cast (fsub_lt _ _) hR
  exact if_congr Iff.rfl rfl <| if_congr Iff.rfl rfl <| if_congr Iff.rfl rfl <|
    if_congr (and_congr hH0 hR0) (dbl_eq_spec t) <| if_congr hH0 rfl <|
      addGeneral_eq_mod t.z u.z (cast_mul_z_pow_two ..) (cast_mul_z_pow_three ..) hH hR

/-- The turns i - 1 down to 0 as the spec's `for` loop (R158). -/
theorem scalarMulFrom_eq_foldl (k : Nat) (t : Triple) : ∀ (i : Nat) (acc : Triple),
    scalarMulFrom k t i acc = (List.range i).reverse.foldl
      (fun A j => if k.testBit j then Spec.add (Spec.dbl A) t else Spec.dbl A) acc
  | 0, _ => rfl
  | i + 1, acc => by
    rw [scalarMulFrom, scalarMulFrom_eq_foldl k t i, List.range_succ, List.reverse_concat, List.foldl_cons,
      add_eq_spec, dbl_eq_spec]

theorem scalarMul_eq_spec (k : Nat) (t : Triple) : scalarMul k t = Spec.scalarMul k t :=
  scalarMulFrom_eq_foldl k t 256 Triple.identity

theorem eq_iff_cast_eq {a b : Nat} (ha : a < Config.p) (hb : b < Config.p) : a = b ↔ (a : ZMod Config.p) = b :=
  ⟨congrArg _, eq_of_cast_eq ha hb⟩

/-- The test of R153 is the equation over exact integers. -/
theorem satisfiesEquation_iff (t : Triple) : satisfiesEquation t = true ↔ Spec.equation t := by
  rw [satisfiesEquation, beq_iff_eq, Spec.equation, ← intCast_eq_zero_iff]
  rw [eq_iff_cast_eq (fsqr_lt _) (fadd_lt _ _), ← sub_eq_zero]
  refine iff_of_eq (congrArg (· = 0) ?_)
  simp only [cast_fadd, cast_fsub _ (fmul_lt _ _), cast_fmul, cast_fsqr]
  push_cast
  ring

theorem onCurve_iff (t : Triple) : Spec.onCurve t ↔ t.z = 0 ∨ satisfiesEquation t = true :=
  or_congr_right (satisfiesEquation_iff t).symm

/-- R162: the inverse of Z cancels, so x Z^2 = X and y Z^3 = Y. -/
theorem isAff_aff {t : Triple} (ht : inRange t = true) : Spec.isAff t (aff t) := by
  have : Fact (Nat.Prime Config.p) := ⟨p_prime⟩
  by_cases hz : t.z = 0
  · rw [Spec.isAff, if_pos hz]
    exact aff_of_z_eq_zero hz
  · have hz' := cast_z_ne_zero ht hz
    rw [Spec.isAff, if_neg hz, aff_of_z_ne_zero hz]
    refine ⟨rfl, fmul_lt _ _, fmul_lt _ _, ?_, ?_⟩
    all_goals
      rw [← ZMod.natCast_eq_natCast_iff']
      push_cast
      simp only [cast_fmul, cast_fsqr, cast_invMod_p]
      field_simp

end Sys2Proof.Machine

/-! SUPPORT. The point commands (spec/42_point.md R151 to R162): their sources and completions in the words of the spec,
then each command from the layer above. -/

namespace Sys2Proof.Machine

theorem inRange_iff_inField (t : Triple) : inRange t = true ↔ Spec.inField t := inRange_iff t

theorem State.sourcePoint_of_some {s : State} {h : Hidden} (hs : s.hidden = some h) {i : Index} (hi : i.toNat ≤ 13) :
    s.sourcePoint i = Spec.srcPoint h i.toNat := by
  have hok : pointIndexOk i = true := decide_eq_true hi
  rw [State.sourcePoint, Spec.srcPoint, State.toNat_source_of_some hs, State.toNat_source_of_some hs,
    State.toNat_source_of_some hs, toNat_add_one_of_pairIndexOk (pairIndexOk_of_pointIndexOk hok),
    toNat_add_two_of_pointIndexOk hok]

/-- INF is set for the canonical identity only (R29). -/
theorem flagsOfPoint_eq (t : Triple) : flagsOfPoint t = ⟨false, t.x == 0 && t.y == 0 && t.z == 0, false⟩ := by
  have hinf : (t == Triple.identity) = (t.x == 0 && t.y == 0 && t.z == 0) := by
    obtain ⟨x, y, z⟩ := t
    rw [Bool.eq_iff_iff]
    simp [Triple.identity, and_assoc]
  rw [flagsOfPoint, hinf]

theorem State.setPoint_regs (s : State) {rd : Index} (hrd : rd.toNat ≤ 13) (t : Triple) :
    (s.setPoint rd t).regs = Spec.putPoint s.regs rd.toNat t.x t.y t.z := by
  have hok : pointIndexOk rd = true := decide_eq_true hrd
  rw [State.setPoint, State.setReg_regs, State.setReg_regs, State.setReg_regs, set_eq_put, set_eq_put, set_eq_put,
    toNat_add_one_of_pairIndexOk (pairIndexOk_of_pointIndexOk hok), toNat_add_two_of_pointIndexOk hok, Spec.putPoint]

theorem State.completePoint_eq_point (s : State) {rd : Index} (hrd : rd.toNat ≤ 13) (t : Triple) :
    s.completePoint rd t = Spec.point s rd t := by
  rw [Spec.point, ← State.setPoint_regs s hrd, State.completePoint, flagsOfPoint_eq]
  rfl

section Points

variable {s : State} {h : Hidden} (hs : s.hidden = some h)
include hs

theorem point1_of_not_inField (f : Triple → Triple) (rd : Index) {ra : Index} (hra : ra.toNat ≤ 13)
    (ht : ¬ Spec.inField (Spec.srcPoint h ra.toNat)) : point1 f rd ra s = .next (Spec.fails s 2) := by
  rw [← State.sourcePoint_of_some hs hra, ← inRange_iff_inField] at ht
  rw [point1, if_neg ht, State.raise_eq_fails]
  rfl

theorem point1_of_inField (f : Triple → Triple) {rd ra : Index} (hrd : rd.toNat ≤ 13) (hra : ra.toNat ≤ 13)
    (ht : Spec.inField (Spec.srcPoint h ra.toNat)) :
    point1 f rd ra s = .next (Spec.point s rd (f (Spec.srcPoint h ra.toNat))) := by
  rw [← State.sourcePoint_of_some hs hra, ← inRange_iff_inField] at ht
  rw [point1, if_pos ht, State.completePoint_eq_point s hrd, State.sourcePoint_of_some hs hra]

theorem execPadd_of_not_inField (rd : Index) {ra rb : Index} (hra : ra.toNat ≤ 13) (hrb : rb.toNat ≤ 13)
    (ht : ¬ (Spec.inField (Spec.srcPoint h ra.toNat) ∧ Spec.inField (Spec.srcPoint h rb.toNat))) :
    execPadd rd ra rb s = .next (Spec.fails s 2) := by
  rw [← State.sourcePoint_of_some hs hra, ← State.sourcePoint_of_some hs hrb, ← inRange_iff_inField,
    ← inRange_iff_inField, ← Bool.and_eq_true] at ht
  rw [execPadd, if_neg ht, State.raise_eq_fails]
  rfl

theorem execPadd_of_inField {rd ra rb : Index} (hrd : rd.toNat ≤ 13) (hra : ra.toNat ≤ 13) (hrb : rb.toNat ≤ 13)
    (ht : Spec.inField (Spec.srcPoint h ra.toNat)) (hu : Spec.inField (Spec.srcPoint h rb.toNat)) :
    execPadd rd ra rb s =
      .next (Spec.point s rd (Spec.add (Spec.srcPoint h ra.toNat) (Spec.srcPoint h rb.toNat))) := by
  rw [← inRange_iff_inField] at ht hu
  rw [execPadd, State.sourcePoint_of_some hs hra, State.sourcePoint_of_some hs hrb, ht, hu,
    State.completePoint_eq_point s hrd, add_eq_spec]
  rfl

/-- The three checks of R157 end in one failure. -/
theorem execPmul_of_bad (rd : Index) {ra rb : Index} (hrb : rb.toNat ≤ 13)
    (hbad : Config.n ≤ Spec.src h ra.toNat ∨ ¬ Spec.inField (Spec.srcPoint h rb.toNat) ∨
      ¬ Spec.onCurve (Spec.srcPoint h rb.toNat)) : execPmul rd ra rb s = .next (Spec.fails s 2) := by
  rw [← inRange_iff_inField, onCurve_iff, not_or] at hbad
  rw [execPmul, State.toNat_source_of_some hs, State.sourcePoint_of_some hs hrb, State.raise_eq_fails]
  split_ifs with hk hr hc
  · rfl
  · rfl
  · rfl
  · obtain hk' | hr' | ⟨hz, he⟩ := hbad
    · exact absurd hk' hk
    · exact absurd (by simpa using hr') hr
    · exact absurd ⟨hz, by simpa using he⟩ hc

theorem execPmul_of_good {rd ra rb : Index} (hrd : rd.toNat ≤ 13) (hrb : rb.toNat ≤ 13)
    (hk : Spec.src h ra.toNat < Config.n) (ht : Spec.inField (Spec.srcPoint h rb.toNat))
    (hc : Spec.onCurve (Spec.srcPoint h rb.toNat)) :
    execPmul rd ra rb s =
      .next (Spec.point s rd (aff (scalarMul (Spec.src h ra.toNat) (Spec.srcPoint h rb.toNat)))) := by
  rw [← inRange_iff_inField] at ht
  rw [onCurve_iff] at hc
  rw [execPmul, State.toNat_source_of_some hs, State.sourcePoint_of_some hs hrb, if_neg hk.not_ge,
    if_neg (by simp [ht]), if_neg (by simpa [or_iff_not_imp_left] using hc), State.completePoint_eq_point s hrd]

theorem execPchk_of_not_inField {ra : Index} (hra : ra.toNat ≤ 13)
    (ht : ¬ Spec.inField (Spec.srcPoint h ra.toNat)) : execPchk ra s = .next (Spec.fails s 2) := by
  rw [← State.sourcePoint_of_some hs hra, ← inRange_iff_inField] at ht
  rw [execPchk, if_neg ht, State.raise_eq_fails]
  rfl

/-- PCHK writes the flags only. -/
theorem execPchk_of_inField {ra : Index} (hra : ra.toNat ≤ 13) (ht : Spec.inField (Spec.srcPoint h ra.toNat))
    {f : Flags} (hf : flagsOfCheck (Spec.srcPoint h ra.toNat) = f) :
    execPchk ra s = .next (Spec.ok s s.regs s.pktag f.z f.inf f.t) := by
  rw [← inRange_iff_inField] at ht
  rw [execPchk, State.sourcePoint_of_some hs hra, if_pos ht, hf]
  rfl

end Points

/-- INF and not T, whatever the equation says of a triple with Z = 0 (R160). -/
theorem flagsOfCheck_of_z_eq_zero {t : Triple} (hz : t.z = 0) : flagsOfCheck t = ⟨false, true, false⟩ := by
  simp [flagsOfCheck, hz]

theorem flagsOfCheck_of_equation {t : Triple} (hz : t.z ≠ 0) (he : Spec.equation t) :
    flagsOfCheck t = ⟨false, false, true⟩ := by
  simp [flagsOfCheck, hz, (satisfiesEquation_iff t).2 he]

theorem flagsOfCheck_of_not_equation {t : Triple} (hz : t.z ≠ 0) (he : ¬ Spec.equation t) :
    flagsOfCheck t = ⟨false, false, false⟩ := by
  simp [flagsOfCheck, hz, mt (satisfiesEquation_iff t).1 he]

/-- Settles O16: the engine's field operations are the integer formulas of R152 reduced once. -/
theorem pdblRule : Obligations.PdblRule := by
  intro rd ra s h hs hrd hra t
  refine ⟨isWordOf_of_encode ?_ (wordOf_eq_word ..), point1_of_not_inField hs dbl rd hra, fun ht => ?_⟩
  · exact Bool.and_eq_true_iff.mpr ⟨decide_eq_true hrd, decide_eq_true hra⟩
  · rw [← dbl_eq_spec]
    exact point1_of_inField hs dbl hrd hra ht

/-- Settles O17: the branches of R154 are the engine's, and so is the triple in each. -/
theorem paddRule : Obligations.PaddRule := by
  intro rd ra rb s h hs hrd hra hrb t1 t2
  refine ⟨isWordOf_of_encode ?_ (wordOf_eq_word ..), execPadd_of_not_inField hs rd hra hrb,
    execPadd_of_inField hs hrd hra hrb⟩
  simp only [Instr.wellFormed, pointIndexOk, hrd, hra, hrb, decide_true, Bool.and_self]

/-- Settles O18: the product is in range, so its Z has an inverse where it is not 0. -/
theorem pmulRule : Obligations.PmulRule := by
  intro rd ra rb s h hs hrd hrb k t
  refine ⟨isWordOf_of_encode ?_ (wordOf_eq_word ..), execPmul_of_bad hs rd hrb, fun hk ht hc => ?_⟩
  · exact Bool.and_eq_true_iff.mpr ⟨decide_eq_true hrd, decide_eq_true hrb⟩
  · rw [← scalarMul_eq_spec]
    exact ⟨_, isAff_aff (inRange_scalarMul k ((inRange_iff_inField t).2 ht)), execPmul_of_good hs hrd hrb hk ht hc⟩

/-- Settles O19, by the three cases of the flags: Z = 0, on the curve, off it. -/
theorem pchkRule : Obligations.PchkRule := fun _ _ _ hs hra =>
  ⟨isWordOf_of_encode (decide_eq_true hra) (wordOf_eq_word ..), execPchk_of_not_inField hs hra,
    fun ht hz => execPchk_of_inField hs hra ht (flagsOfCheck_of_z_eq_zero hz),
    fun ht hz he => execPchk_of_inField hs hra ht (flagsOfCheck_of_equation hz he),
    fun ht hz he => execPchk_of_inField hs hra ht (flagsOfCheck_of_not_equation hz he)⟩

/-- Settles O20: `aff` meets the equations that say the affine form without an inverse. -/
theorem paffRule : Obligations.PaffRule := by
  intro rd ra s h hs hrd hra t
  refine ⟨isWordOf_of_encode ?_ (wordOf_eq_word ..), point1_of_not_inField hs aff rd hra, fun ht => ?_⟩
  · exact Bool.and_eq_true_iff.mpr ⟨decide_eq_true hrd, decide_eq_true hra⟩
  · exact ⟨aff t, isAff_aff ((inRange_iff_inField t).2 ht), point1_of_inField hs aff hrd hra ht⟩

end Sys2Proof.Machine

/-! SUPPORT. The square root of R181: p = 3 mod 4, so the exponent (p + 1) / 4 finds a root where there is one, the other
root is its negative, and p is odd, so their parities differ. -/

namespace Sys2Proof.Machine

theorem p_odd : Config.p % 2 = 1 := by decide

theorem curveRhs_lt (x : Nat) : curveRhs x < Config.p := fadd_lt _ _

/-- The one power `RecoverY` computes, a root where there is any. -/
def candidateY (x : Nat) : Nat := powMod Config.p (curveRhs x) ((Config.p + 1) / 4)

theorem recoverY_eq (x t : Nat) :
    recoverY x t =
      if fsqr (candidateY x) ≠ curveRhs x then none
      else if candidateY x % 2 = t then some (candidateY x)
      else if candidateY x = 0 then none
      else some (Config.p - candidateY x) := rfl

theorem candidateY_eq (x : Nat) : candidateY x = curveRhs x ^ ((Config.p + 1) / 4) % Config.p := powMod_eq (by decide)

theorem candidateY_lt (x : Nat) : candidateY x < Config.p := by
  rw [candidateY_eq]
  exact Nat.mod_lt _ p_pos

/-- The existence statement of R181 in the engine's field operations. -/
theorem isRoot_iff (x : Nat) (tag : Byte) (y : Nat) :
    Spec.isRoot x tag y ↔ y < Config.p ∧ fsqr y = curveRhs x ∧ y % 2 = tag.toNat % 2 := by
  rw [Spec.isRoot, ← intCast_eq_zero_iff, eq_iff_cast_eq (fsqr_lt _) (curveRhs_lt x), cast_fsqr, cast_curveRhs]
  push_cast
  rw [sub_eq_zero]

section SquareRoot

variable [Fact (Nat.Prime Config.p)]

/-- Fermat: where y^2 is the right-hand side, the square of its power is y^(p + 1) = y^2. -/
theorem fsqr_candidateY {x y : Nat} (hsq : fsqr y = curveRhs x) : fsqr (candidateY x) = curveRhs x := by
  rw [candidateY_eq, ← hsq]
  refine eq_of_cast_eq (fsqr_lt _) (fsqr_lt _) ?_
  rw [cast_fsqr, ZMod.natCast_mod, Nat.cast_pow, cast_fsqr, ← pow_mul, ← pow_mul,
    show 2 * ((Config.p + 1) / 4 * 2) = Config.p + 1 by decide, pow_succ, ZMod.pow_card, pow_two]

/-- Two FieldElements have one square exactly when they are equal or each other's negative. -/
theorem fsqr_eq_fsqr_iff {a b : Nat} (ha : a < Config.p) (hb : b < Config.p) :
    fsqr a = fsqr b ↔ a = b ∨ a + b = 0 ∨ a + b = Config.p := by
  rw [eq_iff_cast_eq (fsqr_lt _) (fsqr_lt _), cast_fsqr, cast_fsqr, sq_eq_sq_iff_eq_or_eq_neg,
    ← eq_iff_cast_eq ha hb, eq_neg_iff_add_eq_zero, ← Nat.cast_add, ZMod.natCast_eq_zero_iff]
  refine or_congr_right ⟨?_, ?_⟩
  · rintro ⟨k, hk⟩
    have hk2 : k < 2 := Nat.lt_of_mul_lt_mul_left (a := Config.p) (by omega)
    interval_cases k <;> omega
  · rintro (h0 | hp)
    · exact h0 ▸ dvd_zero _
    · exact dvd_of_eq hp.symm

/-- What `RecoverY` answers is a root of the parity asked for. -/
theorem root_of_recoverY {x t y : Nat} (ht : t < 2) (h : recoverY x t = some y) :
    y < Config.p ∧ fsqr y = curveRhs x ∧ y % 2 = t := by
  have hlt := candidateY_lt x
  rw [recoverY_eq, ite_not] at h
  split_ifs at h with hsq hpar h0
  · obtain rfl := Option.some.inj h
    exact ⟨hlt, hsq, hpar⟩
  · obtain rfl := Option.some.inj h
    have hneg : Config.p - candidateY x < Config.p := by omega
    have hodd := p_odd
    exact ⟨hneg, hsq ▸ (fsqr_eq_fsqr_iff hneg hlt).2 (by omega), by omega⟩

/-- `RecoverY` finds every root, asked for its parity: the candidate is that root or its negative. -/
theorem recoverY_of_root {x y : Nat} (hy : y < Config.p) (hsq : fsqr y = curveRhs x) :
    recoverY x (y % 2) = some y := by
  have hlt := candidateY_lt x
  have hcand := fsqr_candidateY hsq
  have hroots := (fsqr_eq_fsqr_iff hy hlt).1 (hsq.trans hcand.symm)
  have hodd := p_odd
  rw [recoverY_eq, if_neg (not_not.2 hcand)]
  split_ifs with hpar h0
  · exact congrArg some (by omega)
  · omega
  · exact congrArg some (by omega)

theorem recoverY_eq_some_iff (x : Nat) (tag : Byte) (y : Nat) :
    recoverY x (tag.toNat % 2) = some y ↔ Spec.isRoot x tag y := by
  rw [isRoot_iff]
  exact ⟨root_of_recoverY (Nat.mod_lt _ two_pos), fun ⟨hy, hsq, hpar⟩ => hpar ▸ recoverY_of_root hy hsq⟩

end SquareRoot

end Sys2Proof.Machine

/-! SUPPORT. The codec commands (spec/43_codec.md R180 to R185): what decodes, and what each command completes with. -/

namespace Sys2Proof.Machine

theorem tagOk_iff (tag : Byte) : tagOk tag = true ↔ Spec.isTag tag := by
  rw [tagOk, Bool.or_eq_true, beq_iff_eq, beq_iff_eq, Spec.isTag]

/-- A key decodes to (x, y, 1) exactly when its tag and x are in range and y is the root of the tag's parity (R182). -/
theorem decodeKey_eq_some_iff (tag : Byte) (x : Value) (t : Triple) :
    decodeKey tag x = some t ↔
      Spec.isTag tag ∧ x.toNat < Config.p ∧ ∃ y, Spec.isRoot x.toNat tag y ∧ t = ⟨x.toNat, y, 1⟩ := by
  have : Fact (Nat.Prime Config.p) := ⟨p_prime⟩
  simp only [← tagOk_iff, ← recoverY_eq_some_iff]
  refine ⟨decodeKey_some, fun ⟨htag, hx, y, hy, ht⟩ => ?_⟩
  rw [decodeKey, htag, if_neg (by decide), if_neg hx.not_ge, hy, ht]

theorem decodeKey_eq_none {tag : Byte} {x : Value}
    (hbad : ¬ Spec.isTag tag ∨ Config.p ≤ x.toNat ∨ ∀ y, ¬ Spec.isRoot x.toNat tag y) : decodeKey tag x = none := by
  rw [Option.eq_none_iff_forall_ne_some]
  intro t ht
  obtain ⟨htag, hx, y, hy, -⟩ := (decodeKey_eq_some_iff tag x t).1 ht
  obtain hbad | hbad | hbad := hbad
  · exact hbad htag
  · exact hx.not_ge hbad
  · exact hbad y hy

theorem tagOf_eq (y : Nat) : tagOf y = BitVec.ofNat 8 (2 + y % 2) := by
  obtain h | h := Nat.mod_two_eq_zero_or_one y <;> rw [tagOf, h] <;> rfl

theorem isTag_tagOf (y : Nat) : Spec.isTag (tagOf y) := by
  rw [tagOf]
  split_ifs
  · exact .inr rfl
  · exact .inl rfl

theorem toNat_tagOf_mod_two (y : Nat) : (tagOf y).toNat % 2 = y % 2 := by
  rw [tagOf_eq, BitVec.toNat_ofNat]
  omega

/-- Dividing the equation of R153 by Z^6 leaves the affine one: y is the root its own tag names (R181). -/
theorem isRoot_aff {t : Triple} (ht : inRange t = true) (hz : t.z ≠ 0) (he : Spec.equation t) :
    Spec.isRoot (aff t).x (tagOf (aff t).y) (aff t).y := by
  have : Fact (Nat.Prime Config.p) := ⟨p_prime⟩
  have hz' := cast_z_ne_zero ht hz
  have hcurve := cast_satisfiesEquation ((satisfiesEquation_iff t).2 he)
  rw [isRoot_iff, toNat_tagOf_mod_two, aff_of_z_ne_zero hz]
  refine ⟨fmul_lt _ _, eq_of_cast_eq (fsqr_lt _) (curveRhs_lt _) ?_, rfl⟩
  simp only [cast_curveRhs, cast_fsqr, cast_fmul, cast_invMod_p]
  field_simp
  linear_combination hcurve

theorem src_eq_of_put {h : Hidden} {regs : Vector Value 16} {i rd : Index} {v : Nat} (hv : v < Config.p)
    (hreg : h.regs[i.toNat] = (Spec.put regs rd.toNat v)[rd.toNat]) : Spec.src h i.toNat = v := by
  rw [Spec.src, Vector.getElem?_eq_getElem i.isLt, Option.getD_some, hreg, Spec.put,
    Vector.getElem_setIfInBounds_self, toNat_ofNat_of_lt_p hv]

theorem State.setPoint_complete_eq_ok (s : State) {rd : Index} (hrd : rd.toNat ≤ 13) (t : Triple) :
    (s.setPoint rd t).complete flagsClear =
      Spec.ok s (Spec.putPoint s.regs rd.toNat t.x t.y t.z) s.pktag false false false := by
  rw [← State.setPoint_regs s hrd]
  rfl

section Codec

variable {s : State} {h : Hidden} (hs : s.hidden = some h)
include hs

theorem execPdec_of_bad (rd : Index) {ra : Index}
    (hbad : ¬ Spec.isTag h.pktag ∨ Config.p ≤ Spec.src h ra.toNat ∨
      ∀ y, ¬ Spec.isRoot (Spec.src h ra.toNat) h.pktag y) : execPdec rd ra s = .next (Spec.fails s 4) := by
  rw [← State.toNat_source_of_some hs] at hbad
  rw [execPdec, State.sourceTag_of_some hs, decodeKey_eq_none hbad, State.raise_eq_fails]
  rfl

theorem execPdec_of_root {rd ra : Index} (hrd : rd.toNat ≤ 13) {y : Nat} (htag : Spec.isTag h.pktag)
    (hx : Spec.src h ra.toNat < Config.p) (hy : Spec.isRoot (Spec.src h ra.toNat) h.pktag y) :
    execPdec rd ra s =
      .next (Spec.ok s (Spec.putPoint s.regs rd.toNat (Spec.src h ra.toNat) y 1) s.pktag false false false) := by
  rw [← State.toNat_source_of_some hs] at hx hy ⊢
  have hkey := (decodeKey_eq_some_iff h.pktag (s.source ra) _).2 ⟨htag, hx, y, hy, rfl⟩
  rw [execPdec, State.sourceTag_of_some hs, hkey]
  exact congrArg _ (State.setPoint_complete_eq_ok s hrd _)

/-- The two checks of R184 end in one failure. -/
theorem execPenc_of_bad (rd : Index) {ra : Index} (hra : ra.toNat ≤ 13)
    (hbad : ¬ Spec.inField (Spec.srcPoint h ra.toNat) ∨ (Spec.srcPoint h ra.toNat).z = 0) :
    execPenc rd ra s = .next (Spec.fails s 2) := by
  rw [← inRange_iff_inField, Bool.not_eq_true] at hbad
  rw [execPenc, State.sourcePoint_of_some hs hra, State.raise_eq_fails]
  obtain hr | hz := hbad
  · rw [hr]
    rfl
  · rw [if_pos hz, ite_self]
    rfl

theorem execPenc_of_good (rd : Index) {ra : Index} (hra : ra.toNat ≤ 13)
    (ht : Spec.inField (Spec.srcPoint h ra.toNat)) (hz : (Spec.srcPoint h ra.toNat).z ≠ 0) :
    execPenc rd ra s =
      .next (Spec.ok s (Spec.put s.regs rd.toNat (aff (Spec.srcPoint h ra.toNat)).x)
        (tagOf (aff (Spec.srcPoint h ra.toNat)).y) false false false) := by
  rw [← inRange_iff_inField] at ht
  rw [execPenc, State.sourcePoint_of_some hs hra, ht, if_neg (by decide), if_neg hz, ← set_eq_put]
  rfl

end Codec

/-- Settles O21: the keys that decode are those with a root of the tag's parity, and it is the one written. -/
theorem pdecRule : Obligations.PdecRule := fun _ _ _ _ hs hrd =>
  ⟨isWordOf_of_encode (decide_eq_true hrd) (wordOf_eq_word ..), execPdec_of_bad hs _,
    fun _ htag hx hy => execPdec_of_root hs hrd htag hx hy⟩

/-- Settles O22: the affine form is `aff`'s, and the tag is its y's parity. -/
theorem pencRule : Obligations.PencRule := by
  intro rd ra s h hs hra t
  refine ⟨isWordOf_of_encode (decide_eq_true hra) (wordOf_eq_word ..), execPenc_of_bad hs rd hra, fun ht hz => ?_⟩
  refine ⟨aff t, isAff_aff ((inRange_iff_inField t).2 ht), ?_⟩
  rw [← tagOf_eq]
  exact execPenc_of_good hs rd hra ht hz

/-- Settles O34: PENC writes the affine x and the tag of its y, and that y is the root PDEC finds for them. -/
theorem encodeThenDecodeKey : Obligations.EncodeThenDecodeKey := by
  intro rd ra rd' ra' s t s' h h' hs hs' hra hrd' ht hz he hpenc htag hreg
  have hr := (inRange_iff_inField _).2 ht
  have hx : (aff (Spec.srcPoint h ra.toNat)).x < Config.p := by
    rw [aff_of_z_ne_zero hz]
    exact fmul_lt _ _
  obtain rfl := Host.Outcome.next.inj ((execPenc_of_good hs rd hra ht hz).symm.trans hpenc)
  have hsrc := src_eq_of_put hx hreg
  have hroot := isRoot_aff hr hz he
  refine ⟨_, isAff_aff hr, ?_⟩
  rw [← hsrc] at hx hroot ⊢
  exact execPdec_of_root hs' hrd' (htag ▸ isTag_tagOf _) hx (htag ▸ hroot)

end Sys2Proof.Machine

/-! SUPPORT. The protocol commands (spec/44_ecdsa.md R192 to R198): their completions in the words of the spec, then each
command from the sampler, the curve engine and the codec. -/

namespace Sys2Proof.Machine

theorem State.setPair_regs (s : State) {rd : Index} (hrd : rd.toNat ≤ 14) (u v : Nat) :
    (s.setPair rd u v).regs = Spec.putPair s.regs rd.toNat u v := by
  rw [State.setPair, State.setReg_regs, State.setReg_regs, set_eq_put, set_eq_put,
    toNat_add_one_of_pairIndexOk (decide_eq_true hrd), Spec.putPair]

theorem State.setPair_complete_eq_ok (s : State) {rd : Index} (hrd : rd.toNat ≤ 14) (u v : Nat) :
    (s.setPair rd u v).complete flagsClear = Spec.ok s (Spec.putPair s.regs rd.toNat u v) s.pktag false false false := by
  rw [← State.setPair_regs s hrd]
  rfl

theorem State.setPair_setTag_complete_eq_ok (s : State) {rd : Index} (hrd : rd.toNat ≤ 14) (u v : Nat) (tag : Byte) :
    ((s.setPair rd u v).setTag tag).complete flagsClear =
      Spec.ok s (Spec.putPair s.regs rd.toNat u v) tag false false false := by
  rw [← State.setPair_regs s hrd]
  rfl

theorem isAff_aff_scalarMul_g (k : Nat) : Spec.isAff (Spec.scalarMul k Config.g) (aff (scalarMul k Config.g)) :=
  scalarMul_eq_spec k Config.g ▸ isAff_aff (inRange_scalarMul k inRange_g)

/-! ### KEYGEN -/

theorem keygenUnder_of_accepts {s : State} {h : Hidden} (hs : s.hidden = some h) (limit : Config.DrawLimit)
    {rd : Index} (hrd : rd.toNat ≤ 14) {d : Nat} (hd : Spec.accepts h d) :
    keygenUnder limit rd s =
      .next (Spec.ok s (Spec.putPair s.regs rd.toNat d (aff (scalarMul d Config.g)).x)
        (tagOf (aff (scalarMul d Config.g)).y) false false false) := by
  obtain ⟨v, hv, rfl, h1, hn⟩ := hd
  rw [keygenUnder, State.nextScalar_of_accepted hs limit _ hv h1 hn, Option.getD_some,
    State.setPair_setTag_complete_eq_ok s hrd]

/-- Settles O23: KEYGEN is the sampler, and its use of the value never asks for another. -/
theorem keygenRule : Obligations.KeygenRule := by
  intro limit rd s h hs hrd
  refine ⟨isWordOf_of_encode (decide_eq_true hrd) (wordOf_eq_word ..), rfl,
    fun hd => congrArg _ (State.nextScalar_of_mustDraw hs limit _ hd),
    fun hd => congrArg _ (State.nextScalar_of_unavailable hs limit _ hd), fun d hd => ?_⟩
  refine ⟨_, isAff_aff_scalarMul_g d, ?_⟩
  rw [← tagOf_eq]
  exact keygenUnder_of_accepts hs Config.drawLimit hrd hd

/-! ### SIGN -/

/-- The r of a signature with the nonce k (R194). -/
def nonceR (k : Nat) : Nat := reduceN (aff (scalarMul k Config.g)).x

/-- The s of a signature with the key d, the reduced digest e and the nonce k (R194). -/
def nonceS (d e k : Nat) : Nat :=
  mulMod Config.n (invMod Config.n k) (addMod Config.n e (mulMod Config.n (nonceR k) d))

theorem signWith_eq (d e k : Nat) :
    signWith d e k =
      if nonceR k = 0 then none else if nonceS d e k = 0 then none else some (nonceR k, nonceS d e k) := rfl

theorem signWith_eq_none {d e k : Nat} (h : nonceR k = 0 ∨ nonceS d e k = 0) : signWith d e k = none := by
  rw [signWith_eq]
  obtain h | h := h
  · exact if_pos h
  · rw [if_pos h, ite_self]

theorem signWith_eq_some {d e k : Nat} (hr : nonceR k ≠ 0) (hsv : nonceS d e k ≠ 0) :
    signWith d e k = some (nonceR k, nonceS d e k) := by
  rw [signWith_eq, if_neg hr, if_neg hsv]

/-- The s of a signature solves s k = e + r d modulo n (R194). -/
theorem nonceS_mul_nonce {k : Nat} (h1 : 1 ≤ k) (hn : k < Config.n) (d e : Nat) :
    nonceS d e k * k % Config.n = (e + nonceR k * d) % Config.n := by
  have hinv := mulMod_invMod n_prime n_lt_two_pow hn (Nat.one_le_iff_ne_zero.mp h1)
  have hsum : mulMod Config.n (nonceS d e k) k = mulMod Config.n 1 (e + nonceR k * d) := by
    rw [nonceS, mulMod_comm, ← mulMod_assoc, hinv]
    simp only [mulMod, addMod, Nat.mul_mod_mod, Nat.add_mod_mod]
  rwa [mulMod, mulMod, one_mul] at hsum

section Sign

variable {s : State} {h : Hidden} (hs : s.hidden = some h)
include hs

theorem signUnder_of_bad_key (limit : Config.DrawLimit) (rd : Index) {ra : Index} (rb : Index)
    (hbad : Spec.src h ra.toNat = 0 ∨ Config.n ≤ Spec.src h ra.toNat) :
    signUnder limit rd ra rb s = .next (Spec.fails s 4) := by
  have hkey : scalarNonzero (Spec.src h ra.toNat) = false := by
    rw [← Bool.not_eq_true, scalarNonzero_iff]
    omega
  rw [signUnder, State.toNat_source_of_some hs, hkey, State.raise_eq_fails]
  rfl

/-- Past the key check SIGN is the sampler, and a nonce without a signature asks for another (R194, R195). -/
theorem signUnder_of_good_key (limit : Config.DrawLimit) (rd : Index) {ra : Index} (rb : Index)
    (h1 : 1 ≤ Spec.src h ra.toNat) (hn : Spec.src h ra.toNat < Config.n) :
    signUnder limit rd ra rb s =
      .next (s.nextScalar limit fun k =>
        (signWith (Spec.src h ra.toNat) (Spec.src h rb.toNat % Config.n) k.toNat).map fun rs =>
          (s.setPair rd rs.1 rs.2).complete flagsClear) := by
  have hkey := (scalarNonzero_iff _).2 ⟨h1, hn⟩
  rw [signUnder, State.toNat_source_of_some hs, State.toNat_source_of_some hs, hkey]
  refine (if_neg (by decide)).trans (congrArg Host.Outcome.next (congrArg (State.nextScalar limit · s) ?_))
  funext k
  rw [reduceN]
  cases signWith (Spec.src h ra.toNat) (Spec.src h rb.toNat % Config.n) k.toNat <;> rfl

end Sign

/-- Settles O24: the key check, then the sampler, whose attempt is `signWith`. -/
theorem signRule : Obligations.SignRule := by
  intro limit rd ra rb s h hs hrd d e
  refine ⟨isWordOf_of_encode (decide_eq_true hrd) (wordOf_eq_word ..), rfl, signUnder_of_bad_key hs _ rd rb,
    fun h1 hn => ?_⟩
  have hsign := fun limit => signUnder_of_good_key hs limit rd rb h1 hn
  refine ⟨fun hd => ?_, fun hd => ?_, fun k hk => ?_⟩
  · rw [hsign, State.nextScalar_of_mustDraw hs limit _ hd]
  · rw [hsign, State.nextScalar_of_unavailable hs limit _ hd]
  · obtain ⟨v, hv, rfl, hk1, hkn⟩ := hk
    have hk := Nat.lt_of_le_pred n_pos hkn
    refine ⟨_, nonceS d e v.toNat, isAff_aff_scalarMul_g v.toNat, mulMod_lt n_pos _ _,
      nonceS_mul_nonce hk1 hk d e, fun hretry => ?_, fun hr hsv => ?_⟩
    · rw [hsign, State.nextScalar_of_accepted hs limit _ hv hk1 hkn, signWith_eq_none hretry]
      rfl
    · rw [← State.setPair_complete_eq_ok s hrd]
      refine (hsign Config.drawLimit).trans ?_
      rw [State.nextScalar_of_accepted hs _ _ hv hk1 hkn, signWith_eq_some hr hsv]
      rfl

/-! ### VERIFY -/

/-- The point X of verification: (e w) G + (r w) Q for the inverse w of s (R197). -/
def verifyPoint (q : Triple) (z r sv : Nat) : Triple :=
  add (scalarMul (mulMod Config.n (reduceN z) (invMod Config.n sv)) Config.g)
    (scalarMul (mulMod Config.n r (invMod Config.n sv)) q)

theorem signatureHolds_iff (q : Triple) (z r sv : Nat) :
    signatureHolds q z r sv = true ↔
      (verifyPoint q z r sv).z ≠ 0 ∧ (aff (verifyPoint q z r sv)).x % Config.n = r := by
  change (if (verifyPoint q z r sv).z = 0 then false else reduceN (aff (verifyPoint q z r sv)).x == r) = true ↔ _
  split_ifs with hz
  · simp [hz]
  · simp [hz, reduceN]

theorem inRange_affine {x y : Nat} (hx : x < Config.p) (hy : y < Config.p) : inRange ⟨x, y, 1⟩ = true :=
  (inRange_iff _).2 ⟨hx, hy, p_prime.one_lt⟩

theorem inRange_verifyPoint {q : Triple} (hq : inRange q = true) (z r sv : Nat) :
    inRange (verifyPoint q z r sv) = true :=
  inRange_add (inRange_scalarMul _ inRange_g) (inRange_scalarMul _ hq)

theorem verifyPoint_eq_spec (q : Triple) (z r sv : Nat) :
    verifyPoint q z r sv =
      Spec.add (Spec.scalarMul (z % Config.n * invMod Config.n sv % Config.n) Config.g)
        (Spec.scalarMul (r * invMod Config.n sv % Config.n) q) := by
  rw [verifyPoint, add_eq_spec, scalarMul_eq_spec, scalarMul_eq_spec]
  rfl

section Verify

variable {s : State} {h : Hidden} (hs : s.hidden = some h)
include hs

theorem State.toNat_source_succ_of_some {rc : Index} (hrc : rc.toNat ≤ 14) :
    (s.source (rc + 1)).toNat = Spec.src h (rc.toNat + 1) := by
  rw [State.toNat_source_of_some hs, toNat_add_one_of_pairIndexOk (decide_eq_true hrc)]

theorem execVerify_of_bad_signature (ra rb : Index) {rc : Index} (hrc : rc.toNat ≤ 14)
    (hbad : Spec.src h rc.toNat = 0 ∨ Config.n ≤ Spec.src h rc.toNat ∨ Spec.src h (rc.toNat + 1) = 0 ∨
      Config.n ≤ Spec.src h (rc.toNat + 1)) : execVerify ra rb rc s = .next (Spec.fails s 3) := by
  have hrange : (scalarNonzero (Spec.src h rc.toNat) && scalarNonzero (Spec.src h (rc.toNat + 1))) = false := by
    rw [← Bool.not_eq_true, Bool.and_eq_true, scalarNonzero_iff, scalarNonzero_iff]
    omega
  rw [execVerify, State.toNat_source_of_some hs, State.toNat_source_succ_of_some hs hrc, hrange, State.raise_eq_fails]
  rfl

section GoodSignature

variable {rc : Index} (hrc : rc.toNat ≤ 14)
  (hr : 1 ≤ Spec.src h rc.toNat ∧ Spec.src h rc.toNat < Config.n)
  (hsv : 1 ≤ Spec.src h (rc.toNat + 1) ∧ Spec.src h (rc.toNat + 1) < Config.n)
include hrc hr hsv

theorem execVerify_of_good_signature (ra rb : Index) :
    execVerify ra rb rc s =
      (decodeKey h.pktag (s.source ra)).elim (.next (Spec.fails s 4)) fun q =>
        if signatureHolds q (Spec.src h rb.toNat) (Spec.src h rc.toNat) (Spec.src h (rc.toNat + 1)) then
          .next (Spec.ok s s.regs s.pktag false false true)
        else .next (Spec.fails s 3) := by
  have hrange := Bool.and_eq_true_iff.2 ⟨(scalarNonzero_iff _).2 hr, (scalarNonzero_iff _).2 hsv⟩
  rw [execVerify, State.toNat_source_succ_of_some hs hrc, State.toNat_source_of_some hs,
    State.toNat_source_of_some hs, hrange, State.sourceTag_of_some hs, State.raise_eq_fails, State.raise_eq_fails]
  cases decodeKey h.pktag (s.source ra) <;> rfl

theorem execVerify_of_bad_key {ra : Index} (rb : Index)
    (hbad : ¬ Spec.isTag h.pktag ∨ Config.p ≤ Spec.src h ra.toNat ∨
      ∀ y, ¬ Spec.isRoot (Spec.src h ra.toNat) h.pktag y) : execVerify ra rb rc s = .next (Spec.fails s 4) := by
  rw [← State.toNat_source_of_some hs] at hbad
  rw [execVerify_of_good_signature hs hrc hr hsv, decodeKey_eq_none hbad]
  rfl

theorem execVerify_of_root {ra : Index} (rb : Index) {y : Nat} (htag : Spec.isTag h.pktag)
    (hx : Spec.src h ra.toNat < Config.p) (hy : Spec.isRoot (Spec.src h ra.toNat) h.pktag y) :
    execVerify ra rb rc s =
      if signatureHolds ⟨Spec.src h ra.toNat, y, 1⟩ (Spec.src h rb.toNat) (Spec.src h rc.toNat)
          (Spec.src h (rc.toNat + 1)) then .next (Spec.ok s s.regs s.pktag false false true)
      else .next (Spec.fails s 3) := by
  have hsrc := State.toNat_source_of_some hs ra
  have hkey := (decodeKey_eq_some_iff h.pktag (s.source ra) ⟨Spec.src h ra.toNat, y, 1⟩).2
    ⟨htag, hsrc ▸ hx, y, hsrc ▸ hy, hsrc ▸ rfl⟩
  rw [execVerify_of_good_signature hs hrc hr hsv, hkey]
  rfl

end GoodSignature

end Verify

/-- Settles O25: the range check, the key's decoding and the equation, in the order the command makes them. -/
theorem verifyRule : Obligations.VerifyRule := by
  intro ra rb rc s h hs hrc x e r sv
  refine ⟨isWordOf_of_encode (decide_eq_true hrc) (wordOf_eq_word ..), execVerify_of_bad_signature hs ra rb hrc,
    fun hr1 hr hsv1 hsv => ⟨execVerify_of_bad_key hs hrc ⟨hr1, hr⟩ ⟨hsv1, hsv⟩ rb, fun y htag hx hy => ?_⟩⟩
  have hverify := execVerify_of_root hs hrc ⟨hr1, hr⟩ ⟨hsv1, hsv⟩ rb htag hx hy
  have hholds := signatureHolds_iff ⟨x, y, 1⟩ (Spec.src h rb.toNat) r sv
  have hinv := mulMod_invMod n_prime n_lt_two_pow hsv (Nat.one_le_iff_ne_zero.mp hsv1)
  refine ⟨invMod Config.n sv, aff (verifyPoint ⟨x, y, 1⟩ (Spec.src h rb.toNat) r sv),
    invMod_lt n_lt_two_pow n_pos sv, (mulMod_comm ..).trans hinv, ?_⟩
  rw [← verifyPoint_eq_spec]
  refine ⟨isAff_aff (inRange_verifyPoint (inRange_affine hx hy.1) ..), fun hbad => hverify.trans (if_neg ?_),
    fun hz heq => hverify.trans (if_pos (hholds.2 ⟨hz, heq⟩))⟩
  rw [hholds]
  rintro ⟨hz, heq⟩
  exact hbad.elim hz (· heq)

end Sys2Proof.Machine

/-! SUPPORT. Signatures in the group of the curve (R199, R200): the coordinates of a triple's affine form are those of its
point, multiples count modulo n, and so verification reads the x-coordinate of (e w) G + (r w) Q. -/

namespace Sys2Proof.Machine

open WeierstrassCurve.Affine

theorem inRange_aff (t : Triple) : inRange (aff t) = true := by
  by_cases hz : t.z = 0
  · rw [aff_of_z_eq_zero hz]
    decide
  · rw [aff_of_z_ne_zero hz]
    exact inRange_affine (fmul_lt _ _) (fmul_lt _ _)

/-! ### Inverses modulo n -/

theorem cast_mulMod_n (a b : Nat) : ((mulMod Config.n a b : ℕ) : ZMod Config.n) = a * b := by
  rw [mulMod, ZMod.natCast_mod, Nat.cast_mul]

theorem mulMod_n_lt_two_pow (a b : Nat) : mulMod Config.n a b < 2 ^ 256 := (mulMod_lt n_pos a b).trans n_lt_two_pow

theorem cast_mul_invMod_n {a : Nat} (h1 : 1 ≤ a) (hn : a < Config.n) :
    (a : ZMod Config.n) * (invMod Config.n a : ℕ) = 1 := by
  rw [← cast_mulMod_n, mulMod_invMod n_prime n_lt_two_pow hn (Nat.one_le_iff_ne_zero.mp h1), Nat.cast_one]

theorem xCoordinate_neg (P : Spec.curve.Point) : xCoordinate (-P) = xCoordinate P := by
  cases P <;> rfl

section SignatureGroup

variable [Fact (Nat.Prime Config.p)]

/-! ### Points and affine forms -/

theorem cast_aff_of_standsFor {t : Triple} {x y : ZMod Config.p} {hP : Spec.curve.Nonsingular x y}
    (ht : inRange t = true) (h : Spec.standsFor t (.some x y hP)) :
    ((aff t).x : ZMod Config.p) = x ∧ ((aff t).y : ZMod Config.p) = y := by
  obtain ⟨hz, hx, hy⟩ := (standsFor_some t hP).1 h
  have hz' := cast_z_ne_zero ht hz
  rw [aff_of_z_ne_zero hz]
  simp only [cast_fmul, cast_fsqr, cast_invMod_p, ← hx, ← hy]
  constructor <;> field_simp

theorem standsFor_affine {x y : Nat} (h : Spec.curve.Nonsingular (x : ZMod Config.p) y) :
    Spec.standsFor ⟨x, y, 1⟩ (.some _ _ h) :=
  (standsFor_some _ h).2 ⟨one_ne_zero, by simp, by simp⟩

/-- The affine form stands for the same point (R162). -/
theorem standsFor_aff {t : Triple} {P : Spec.curve.Point} (ht : inRange t = true) (h : Spec.standsFor t P) :
    Spec.standsFor (aff t) P := by
  by_cases hz : t.z = 0
  · rw [eq_zero_of_standsFor h hz, aff_of_z_eq_zero hz]
    exact standsFor_identity
  · cases P with
    | zero => exact absurd h hz
    | some x y hP =>
      obtain ⟨hx, hy⟩ := cast_aff_of_standsFor ht h
      have hz1 : (aff t).z = 1 := by rw [aff_of_z_ne_zero hz]
      rw [standsFor_some, hz1, hx, hy]
      simp

/-- The affine y is the root that its own tag names, for a point of the curve (R181). -/
theorem isRoot_aff_of_standsFor {t : Triple} {P : Spec.curve.Point} (ht : inRange t = true)
    (h : Spec.standsFor t P) (hz : t.z ≠ 0) : Spec.isRoot (aff t).x (tagOf (aff t).y) (aff t).y := by
  cases P with
  | zero => exact absurd h hz
  | some x y hP =>
    obtain ⟨hx, hy⟩ := cast_aff_of_standsFor ht h
    obtain ⟨-, hlt, -⟩ := (inRange_iff _).1 (inRange_aff t)
    rw [isRoot_iff, toNat_tagOf_mod_two]
    refine ⟨hlt, eq_of_cast_eq (fsqr_lt _) (curveRhs_lt _) ?_, rfl⟩
    rw [cast_fsqr, cast_curveRhs, hx, hy]
    exact (curve_equation_iff x y).1 hP.1

/-- A decoded key is a point of the curve (R182). -/
theorem exists_standsFor_of_isRoot {x y : Nat} {tag : Byte} (h : Spec.isRoot x tag y) :
    ∃ Q : Spec.curve.Point, Spec.standsFor ⟨x, y, 1⟩ Q := by
  obtain ⟨-, hsq, -⟩ := (isRoot_iff x tag y).1 h
  have heq : Spec.curve.Equation (x : ZMod Config.p) y := by
    rw [curve_equation_iff, ← cast_fsqr, hsq, cast_curveRhs]
  exact ⟨_, standsFor_affine (nonsingular_of_equation heq)⟩

theorem xCoordinate_of_standsFor {t : Triple} {P : Spec.curve.Point} (ht : inRange t = true)
    (h : Spec.standsFor t P) :
    xCoordinate P = if t.z = 0 then none else some ((aff t).x : ZMod Config.p) := by
  cases P with
  | zero => exact (if_pos h).symm
  | some x y hP =>
    rw [if_neg ((standsFor_some t hP).1 h).1, (cast_aff_of_standsFor ht h).1]
    rfl

/-! ### Multiples modulo n -/

/-- The group has n elements, so a multiple depends on its factor modulo n only. -/
theorem nsmul_eq_of_cast_eq {k l : Nat} (h : (k : ZMod Config.n) = l) (P : Spec.curve.Point) : k • P = l • P := by
  rw [ZMod.natCast_eq_natCast_iff', ← card_points] at h
  rw [← mod_natCard_nsmul P k, h, mod_natCard_nsmul]

/-- The multiples by a / (n - s) and by a / s are each other's negatives. -/
theorem nsmul_invMod_n_sub (a : Nat) {sv : Nat} (h1 : 1 ≤ sv) (hn : sv < Config.n) (P : Spec.curve.Point) :
    mulMod Config.n a (invMod Config.n (Config.n - sv)) • P = -(mulMod Config.n a (invMod Config.n sv) • P) := by
  have hinv := cast_mul_invMod_n h1 hn
  have htwin := cast_mul_invMod_n (a := Config.n - sv) (by omega) (by omega)
  rw [Nat.cast_sub hn.le, ZMod.natCast_self] at htwin
  rw [eq_neg_iff_add_eq_zero, ← add_nsmul]
  refine (nsmul_eq_of_cast_eq (l := 0) ?_ P).trans (zero_nsmul P)
  rw [Nat.cast_add, cast_mulMod_n, cast_mulMod_n, Nat.cast_zero]
  generalize ((invMod Config.n sv : ℕ) : ZMod Config.n) = w at *
  generalize ((invMod Config.n (Config.n - sv) : ℕ) : ZMod Config.n) = w' at *
  linear_combination (-a * w') * hinv - (a * w) * htwin

/-! ### The verification equation -/

/-- The engine's k P + l Q has the x-coordinate of the point k P + l Q. -/
theorem xCoordinate_nsmul_add_nsmul {k l : Nat} {t u : Triple} {P Q : Spec.curve.Point} (hk : k < 2 ^ 256)
    (hl : l < 2 ^ 256) (ht : inRange t = true) (hu : inRange u = true) (hP : Spec.standsFor t P)
    (hQ : Spec.standsFor u Q) :
    xCoordinate (k • P + l • Q) =
      if (add (scalarMul k t) (scalarMul l u)).z = 0 then none
      else some ((aff (add (scalarMul k t) (scalarMul l u))).x : ZMod Config.p) :=
  have hkt := inRange_scalarMul k ht
  have hlu := inRange_scalarMul l hu
  xCoordinate_of_standsFor (inRange_add hkt hlu)
    (standsFor_add hkt hlu (standsFor_scalarMul hk ht hP) (standsFor_scalarMul hl hu hQ))

/-- Verification asks for the x-coordinate of (e w) G + (r w) Q, reduced modulo n (R197). -/
theorem signatureHolds_iff_xCoordinate {q : Triple} {G Q : Spec.curve.Point} (hG : Spec.standsFor Config.g G)
    (hq : inRange q = true) (hQ : Spec.standsFor q Q) (z r sv : Nat) :
    signatureHolds q z r sv = true ↔
      ∃ v : Nat, v < Config.p ∧ v % Config.n = r ∧
        xCoordinate (mulMod Config.n (reduceN z) (invMod Config.n sv) • G +
          mulMod Config.n r (invMod Config.n sv) • Q) = some (v : ZMod Config.p) := by
  have hX := xCoordinate_nsmul_add_nsmul (mulMod_n_lt_two_pow (reduceN z) (invMod Config.n sv))
    (mulMod_n_lt_two_pow r (invMod Config.n sv)) inRange_g hq hG hQ
  rw [← verifyPoint] at hX
  obtain ⟨hxlt, -⟩ := (inRange_iff _).1 (inRange_aff (verifyPoint q z r sv))
  refine (signatureHolds_iff q z r sv).trans ⟨?_, ?_⟩
  · rintro ⟨hz, hx⟩
    exact ⟨_, hxlt, hx, hX.trans (if_neg hz)⟩
  · rintro ⟨v, hv, hx, heq⟩
    rw [hX] at heq
    split_ifs at heq with hz
    exact ⟨hz, by rw [eq_of_cast_eq hxlt hv (Option.some.inj heq), hx]⟩

/-- R199: (r, n - s) gives -X in place of X, and a point and its negative have one x-coordinate. -/
theorem signatureHolds_twin {q : Triple} {Q : Spec.curve.Point} (hr : inRange q = true) (hQ : Spec.standsFor q Q)
    (z r : Nat) {sv : Nat} (h1 : 1 ≤ sv) (hn : sv < Config.n) :
    signatureHolds q z r (Config.n - sv) = signatureHolds q z r sv := by
  obtain ⟨G, hG, -⟩ := exists_standsFor_g
  rw [Bool.eq_iff_iff, signatureHolds_iff_xCoordinate hG hr hQ, signatureHolds_iff_xCoordinate hG hr hQ,
    nsmul_invMod_n_sub _ h1 hn, nsmul_invMod_n_sub _ h1 hn, ← neg_add, xCoordinate_neg]

/-- R200: for s k = e + r d the point X under the key d G is k G. -/
theorem nsmul_add_nsmul_eq {d e k r sv : Nat} (h1 : 1 ≤ sv) (hn : sv < Config.n)
    (hsv : sv * k % Config.n = (e + r * d) % Config.n) (G : Spec.curve.Point) :
    mulMod Config.n e (invMod Config.n sv) • G + mulMod Config.n r (invMod Config.n sv) • d • G = k • G := by
  have hinv := cast_mul_invMod_n h1 hn
  have hcast := (ZMod.natCast_eq_natCast_iff' _ _ _).2 hsv
  push_cast at hcast
  rw [← mul_nsmul', ← add_nsmul]
  refine nsmul_eq_of_cast_eq ?_ G
  push_cast
  rw [cast_mulMod_n, cast_mulMod_n]
  linear_combination k * hinv - ((invMod Config.n sv : ℕ) : ZMod Config.n) * hcast

/-- R200: a signature with an accepted nonce verifies under the key d G. -/
theorem signatureHolds_of_signature {d k : Nat} (hd : d < Config.n) (hk1 : 1 ≤ k) (hk : k < Config.n) (z : Nat)
    (hsv : nonceS d (reduceN z) k ≠ 0) :
    signatureHolds (aff (scalarMul d Config.g)) z (nonceR k) (nonceS d (reduceN z) k) = true := by
  obtain ⟨G, hG, -⟩ := exists_standsFor_g
  have hD := standsFor_aff (inRange_scalarMul d inRange_g) (standsFor_scalarMul (hd.trans n_lt_two_pow) inRange_g hG)
  have hK := standsFor_scalarMul (hk.trans n_lt_two_pow) inRange_g hG
  obtain ⟨hxlt, -⟩ := (inRange_iff _).1 (inRange_aff (scalarMul k Config.g))
  rw [signatureHolds_iff_xCoordinate hG (inRange_aff _) hD]
  refine ⟨(aff (scalarMul k Config.g)).x, hxlt, rfl, ?_⟩
  rw [nsmul_add_nsmul_eq (Nat.one_le_iff_ne_zero.mpr hsv) (mulMod_lt n_pos _ _) (nonceS_mul_nonce hk1 hk d _),
    xCoordinate_of_standsFor (inRange_scalarMul k inRange_g) hK, if_neg (scalarMul_g_ne_zero hk1 hk)]

end SignatureGroup

end Sys2Proof.Machine

/-! SUPPORT. The laws of signatures at the commands (R199, R200): when VERIFY ends valid, what SIGN writes, and the
sources of a register file with a written register. -/

namespace Sys2Proof.Machine

theorem src_of_getElem? {h : Hidden} {k : Nat} {v : Value} (hk : h.regs[k]? = some v) : Spec.src h k = v.toNat := by
  rw [Spec.src, hk, Option.getD_some]

theorem src_of_regs_eq_put {h h' : Hidden} {i v : Nat} (hregs : h'.regs = Spec.put h.regs i v) (k : Nat) (hk : k ≠ i) :
    Spec.src h' k = Spec.src h k := by
  rw [Spec.src, hregs, Spec.put, Vector.getElem?_setIfInBounds_ne hk.symm, Spec.src]

theorem getElem?_put_self {regs : Vector Value 16} {i : Nat} (hi : i < 16) (v : Nat) :
    (Spec.put regs i v)[i]? = some (BitVec.ofNat 256 v) := by
  rw [Spec.put, Vector.getElem?_setIfInBounds_self_of_lt hi]

theorem getElem?_putPair_fst {regs : Vector Value 16} {i : Nat} (hi : i < 16) (u v : Nat) :
    (Spec.putPair regs i u v)[i]? = some (BitVec.ofNat 256 u) := by
  rw [Spec.putPair, Spec.put, Vector.getElem?_setIfInBounds_ne (by omega), getElem?_put_self hi]

theorem getElem?_putPair_snd {regs : Vector Value 16} {i : Nat} (hi : i + 1 < 16) (u v : Nat) :
    (Spec.putPair regs i u v)[i + 1]? = some (BitVec.ofNat 256 v) := getElem?_put_self hi v

/-- A failing completion is no OK: the outcomes differ (R221). -/
theorem next_fails_ne_next_ok {c : Nat} (hc : BitVec.ofNat 4 c ≠ 0#4) {s : State} {regs : Vector Value 16} {tag : Byte}
    {z inf t : Bool} : (.next (Spec.fails s c) : Result) ≠ .next (Spec.ok s regs tag z inf t) := fun h =>
  hc (congrArg State.outcome (Host.Outcome.next.inj h))

/-- VERIFY ends valid exactly for a signature in range, a key that decodes and an equation that holds (R197, R198). -/
theorem execVerify_valid_iff {s : State} {h : Hidden} (hs : s.hidden = some h) (ra rb : Index) {rc : Index}
    (hrc : rc.toNat ≤ 14) :
    execVerify ra rb rc s = .next (Spec.ok s s.regs s.pktag false false true) ↔
      (1 ≤ Spec.src h rc.toNat ∧ Spec.src h rc.toNat < Config.n) ∧
      (1 ≤ Spec.src h (rc.toNat + 1) ∧ Spec.src h (rc.toNat + 1) < Config.n) ∧
      Spec.isTag h.pktag ∧ Spec.src h ra.toNat < Config.p ∧ ∃ y, Spec.isRoot (Spec.src h ra.toNat) h.pktag y ∧
        signatureHolds ⟨Spec.src h ra.toNat, y, 1⟩ (Spec.src h rb.toNat) (Spec.src h rc.toNat)
          (Spec.src h (rc.toNat + 1)) = true := by
  constructor
  · intro hok
    by_cases hrange : (1 ≤ Spec.src h rc.toNat ∧ Spec.src h rc.toNat < Config.n) ∧
        (1 ≤ Spec.src h (rc.toNat + 1) ∧ Spec.src h (rc.toNat + 1) < Config.n)
    case neg =>
      rw [execVerify_of_bad_signature hs ra rb hrc (by omega)] at hok
      exact absurd hok (next_fails_ne_next_ok (by decide))
    obtain ⟨hr, hsv⟩ := hrange
    by_cases hkey : Spec.isTag h.pktag ∧ Spec.src h ra.toNat < Config.p ∧
        ∃ y, Spec.isRoot (Spec.src h ra.toNat) h.pktag y
    case neg =>
      rw [not_and_or, not_and_or, not_lt, not_exists] at hkey
      rw [execVerify_of_bad_key hs hrc hr hsv rb hkey] at hok
      exact absurd hok (next_fails_ne_next_ok (by decide))
    obtain ⟨htag, hx, y, hy⟩ := hkey
    refine ⟨hr, hsv, htag, hx, y, hy, ?_⟩
    by_contra hfalse
    rw [execVerify_of_root hs hrc hr hsv rb htag hx hy, if_neg hfalse] at hok
    exact absurd hok (next_fails_ne_next_ok (by decide))
  · rintro ⟨hr, hsv, htag, hx, y, hy, hholds⟩
    exact (execVerify_of_root hs hrc hr hsv rb htag hx hy).trans (if_pos hholds)

/-- SIGN ends OK only with a key in range and the pair of an accepted nonce (R194). -/
theorem exec_sign_ok {s t : State} {h : Hidden} (hs : s.hidden = some h) {rd ra rb : Index} (hrd : rd.toNat ≤ 14)
    (ht : exec (.sign rd ra rb) s = .next t) (hend : t.hidden = none) (hok : t.outcome = 0) :
    (1 ≤ Spec.src h ra.toNat ∧ Spec.src h ra.toNat < Config.n) ∧
    ∃ k, 1 ≤ k ∧ k < Config.n ∧ nonceR k ≠ 0 ∧
      nonceS (Spec.src h ra.toNat) (reduceN (Spec.src h rb.toNat)) k ≠ 0 ∧
      t.regs = Spec.putPair s.regs rd.toNat (nonceR k)
        (nonceS (Spec.src h ra.toNat) (reduceN (Spec.src h rb.toNat)) k) := by
  by_cases hd : 1 ≤ Spec.src h ra.toNat ∧ Spec.src h ra.toNat < Config.n
  case neg =>
    cases (signUnder_of_bad_key hs Config.drawLimit rd rb (by omega)).symm.trans ht
    exact absurd hok (show 4#4 ≠ 0#4 by decide)
  obtain rfl := Host.Outcome.next.inj ((signUnder_of_good_key hs Config.drawLimit rd rb hd.1 hd.2).symm.trans ht)
  refine ⟨hd, ?_⟩
  rcases nextScalar_cases Config.drawLimit _ s with hraise | ⟨-, hwait⟩ | ⟨v, u, -, hacc, hsign, hu⟩
  · rw [hraise, State.raise_outcome] at hok
    exact absurd hok (by decide)
  · rw [hwait] at hend
    exact absurd hend (by simp)
  · obtain ⟨⟨r, sv⟩, hpair, rfl⟩ := Option.map_eq_some_iff.1 hsign
    obtain ⟨rfl, hr, rfl, hsv⟩ := signWith_some hpair
    obtain ⟨h1, hn⟩ := (drawAccepted_iff v).1 hacc
    refine ⟨v.toNat, h1, hn, hr, hsv, ?_⟩
    rw [hu]
    exact State.setPair_regs s hrd _ _

/-- Settles O35: the key d G decodes to its affine form, and under it X is the k G that r was taken from. -/
theorem signThenVerifyAccepts : Obligations.SignThenVerifyAccepts := by
  intro rd ra rb ra' rb' rc' s t s' h h' hs hs' hrd hrc' hsign hend hok hx htag hz hr hsv
  have : Fact (Nat.Prime Config.p) := ⟨p_prime⟩
  obtain ⟨⟨hd1, hd⟩, k, hk1, hk, hr0, hsv0, hregs⟩ := exec_sign_ok hs hrd hsign hend hok
  generalize Spec.src h ra.toNat = d at *
  obtain ⟨G, hG, -⟩ := exists_standsFor_g
  have hD := standsFor_scalarMul (hd.trans n_lt_two_pow) inRange_g hG
  have hDr := inRange_scalarMul d inRange_g
  have hDz := scalarMul_g_ne_zero hd1 hd
  rw [hregs, getElem?_putPair_fst (by omega)] at hr
  rw [hregs, getElem?_putPair_snd (by omega)] at hsv
  have hrlt : nonceR k < Config.n := Nat.mod_lt _ n_pos
  have hsvlt : nonceS d (reduceN (Spec.src h rb.toNat)) k < Config.n := mulMod_lt n_pos _ _
  refine (execVerify_valid_iff hs' ra' rb' hrc').2 ?_
  rw [src_of_getElem? hr, src_of_getElem? hsv, toNat_ofNat_of_lt_n hrlt,
    toNat_ofNat_of_lt_n hsvlt, hx, hz, htag]
  refine ⟨⟨Nat.one_le_iff_ne_zero.mpr hr0, hrlt⟩, ⟨Nat.one_le_iff_ne_zero.mpr hsv0, hsvlt⟩, isTag_tagOf _,
    ((inRange_iff _).1 (inRange_aff _)).1, _, isRoot_aff_of_standsFor hDr hD hDz, ?_⟩
  have hholds := signatureHolds_of_signature hd hk1 hk (Spec.src h rb.toNat) hsv0
  rwa [aff_of_z_ne_zero hDz] at hholds ⊢

/-- Settles O36: only the register of s differs, and n - s verifies with s. -/
theorem verifyAcceptsTwinSignature : Obligations.VerifyAcceptsTwinSignature := by
  intro ra rb rc s s' h h' hs hs' hrc hra hrb htag hregs hvalid
  have : Fact (Nat.Prime Config.p) := ⟨p_prime⟩
  obtain ⟨hr, ⟨hsv1, hsv⟩, hkey, hx, y, hy, hholds⟩ := (execVerify_valid_iff hs ra rb hrc).1 hvalid
  have hsucc := toNat_add_one_of_pairIndexOk (decide_eq_true hrc)
  have hsame {i : Index} (hi : rc + 1 ≠ i) : Spec.src h' i.toNat = Spec.src h i.toNat :=
    src_of_regs_eq_put hregs i.toNat fun he => hi (BitVec.eq_of_toNat_eq (hsucc.trans he.symm))
  have htwin : Spec.src h' (rc.toNat + 1) = Config.n - Spec.src h (rc.toNat + 1) := by
    rw [src_of_getElem? (hregs ▸ getElem?_put_self (by omega) _), toNat_ofNat_of_lt_n (by omega)]
  obtain ⟨Q, hQ⟩ := exists_standsFor_of_isRoot hy
  refine (execVerify_valid_iff hs' ra rb hrc).2 ?_
  rw [hsame hra, hsame hrb, src_of_regs_eq_put hregs _ (by omega), htwin, htag]
  refine ⟨hr, ⟨by omega, by omega⟩, hkey, hx, y, hy, ?_⟩
  rwa [signatureHolds_twin (inRange_affine hx hy.1) hQ _ _ hsv1 hsv]

end Sys2Proof.Machine

/-! SUPPORT. Two states that hold the same hidden state run a command to the same result (R74, R190): every check and
every written value is read from the held copy. -/

namespace Sys2Proof.Machine

/-- The registers ks have the same values in both states. -/
def AgreeOn (ks : List Nat) (u u' : State) : Prop := ∀ k ∈ ks, u.regs[k]? = u'.regs[k]?

/-- The turns of two states end alike: in one failure, in one request of a draw, or in one set of flags with the same
registers ks and, where `tag` asks for it, the same `PKTAG`. -/
inductive EndAlike (ks : List Nat) (tag : Bool) (s s' : State) : State → State → Prop where
  | failed (f : Failure) : EndAlike ks tag s s' (s.raise f) (s'.raise f)
  | waits : EndAlike ks tag s s' s.requestDraw s'.requestDraw
  | done (f : Flags) {u u' : State} : AgreeOn ks u u' → (tag = true → u.pktag = u'.pktag) →
      EndAlike ks tag s s' (u.complete f) (u'.complete f)

/-- The two results are next states that end alike. -/
def AnswerAlike (ks : List Nat) (tag : Bool) (s s' : State) (r r' : Result) : Prop :=
  ∃ t t', r = .next t ∧ r' = .next t' ∧ EndAlike ks tag s s' t t'

section Registers

variable {ks : List Nat} {u u' : State}

theorem AgreeOn.nil : AgreeOn [] u u' := fun _ hk => absurd hk List.not_mem_nil

theorem AgreeOn.mono {ks' : List Nat} (h : AgreeOn ks u u') (hsub : ks' ⊆ ks) : AgreeOn ks' u u' :=
  fun k hk => h k (hsub hk)

theorem AgreeOn.setReg (h : AgreeOn ks u u') (i : Index) (v : Value) :
    AgreeOn (i.toNat :: ks) (u.setReg i v) (u'.setReg i v) := by
  intro k hk
  rw [State.setReg_regs, State.setReg_regs]
  by_cases hik : i.toNat = k
  · subst hik
    rw [Vector.getElem?_set_self, Vector.getElem?_set_self]
  · rw [Vector.getElem?_set_ne _ hik, Vector.getElem?_set_ne _ hik]
    exact h k (List.mem_of_ne_of_mem (Ne.symm hik) hk)

theorem agreeOn_setReg (i : Index) (v : Value) : AgreeOn [i.toNat] (u.setReg i v) (u'.setReg i v) :=
  AgreeOn.nil.setReg i v

theorem agreeOn_setPair {rd : Index} (hrd : pairIndexOk rd = true) (x y : Nat) :
    AgreeOn [rd.toNat, rd.toNat + 1] (u.setPair rd x y) (u'.setPair rd x y) := by
  rw [← toNat_add_one_of_pairIndexOk hrd]
  refine ((agreeOn_setReg rd _).setReg (rd + 1) _).mono ?_
  simp

theorem agreeOn_setPoint {rd : Index} (hrd : pointIndexOk rd = true) (t : Triple) :
    AgreeOn [rd.toNat, rd.toNat + 1, rd.toNat + 2] (u.setPoint rd t) (u'.setPoint rd t) := by
  rw [← toNat_add_two_of_pointIndexOk hrd, ← toNat_add_one_of_pairIndexOk (pairIndexOk_of_pointIndexOk hrd)]
  refine (((agreeOn_setReg rd _).setReg (rd + 1) _).setReg (rd + 2) _).mono ?_
  simp

end Registers

section Alike

variable {ks : List Nat} {tag : Bool} {s s' : State}

theorem EndAlike.answer {t t' : State} (h : EndAlike ks tag s s' t t') : AnswerAlike ks tag s s' (.next t) (.next t') :=
  ⟨t, t', rfl, rfl, h⟩

theorem answerAlike_raise (f : Failure) : AnswerAlike ks tag s s' (.next (s.raise f)) (.next (s'.raise f)) :=
  (EndAlike.failed f).answer

theorem answerAlike_complete (f : Flags) {u u' : State} (h : AgreeOn ks u u')
    (htag : tag = true → u.pktag = u'.pktag) :
    AnswerAlike ks tag s s' (.next (u.complete f)) (.next (u'.complete f)) := (EndAlike.done f h htag).answer

theorem AnswerAlike.ite {c : Prop} [Decidable c] {r₁ r₂ r₁' r₂' : Result} (h₁ : AnswerAlike ks tag s s' r₁ r₁')
    (h₂ : AnswerAlike ks tag s s' r₂ r₂') :
    AnswerAlike ks tag s s' (if c then r₁ else r₂) (if c then r₁' else r₂') := by
  split
  · exact h₁
  · exact h₂

theorem answerAlike_completeResidue (rd : Index) (v : Nat) :
    AnswerAlike [rd.toNat] false s s' (.next (s.completeResidue rd v)) (.next (s'.completeResidue rd v)) :=
  answerAlike_complete _ (agreeOn_setReg _ _) nofun

theorem answerAlike_completePoint {rd : Index} (hrd : pointIndexOk rd = true) (t : Triple) :
    AnswerAlike [rd.toNat, rd.toNat + 1, rd.toNat + 2] false s s' (.next (s.completePoint rd t))
      (.next (s'.completePoint rd t)) :=
  answerAlike_complete _ (agreeOn_setPoint hrd _) nofun

end Alike

section SameHeld

variable {ks : List Nat} {tag : Bool} {s s' : State} (hh : s.held = s'.held)
include hh

theorem State.source_eq_of_held (i : Index) : s.source i = s'.source i := by rw [State.source, hh, State.source]

theorem State.sourcePoint_eq_of_held (i : Index) : s.sourcePoint i = s'.sourcePoint i := by
  simp only [State.sourcePoint, State.source_eq_of_held hh]

theorem State.sourceTag_eq_of_held : s.sourceTag = s'.sourceTag := by rw [State.sourceTag, hh, State.sourceTag]

theorem residue2_alike (m : Nat) (f : Nat → Nat → Nat) (rd ra rb : Index) :
    AnswerAlike [rd.toNat] false s s' (residue2 m f rd ra rb s) (residue2 m f rd ra rb s') := by
  simp only [residue2, State.source_eq_of_held hh]
  exact .ite (answerAlike_raise _) (answerAlike_completeResidue ..)

theorem residue1_alike (m : Nat) (f : Nat → Nat) (rd ra : Index) :
    AnswerAlike [rd.toNat] false s s' (residue1 m f rd ra s) (residue1 m f rd ra s') := by
  simp only [residue1, State.source_eq_of_held hh]
  exact .ite (answerAlike_raise _) (answerAlike_completeResidue ..)

theorem point1_alike (f : Triple → Triple) {rd : Index} (hrd : pointIndexOk rd = true) (ra : Index) :
    AnswerAlike [rd.toNat, rd.toNat + 1, rd.toNat + 2] false s s' (point1 f rd ra s) (point1 f rd ra s') := by
  simp only [point1, State.sourcePoint_eq_of_held hh]
  exact .ite (answerAlike_completePoint hrd _) (answerAlike_raise _)

theorem drawAgain_alike (limit : Config.DrawLimit) :
    EndAlike ks tag s s' (s.drawAgain limit) (s'.drawAgain limit) := by
  rw [State.drawAgain, State.drawAgain, hh]
  split
  · exact .failed _
  · exact .waits

/-- The sampler reads the held draw only, so it ends alike if its attempts do (R138). -/
theorem nextScalar_alike (limit : Config.DrawLimit) {attempt attempt' : Value → Option State}
    (ha : ∀ v, Option.Rel (EndAlike ks tag s s') (attempt v) (attempt' v)) :
    AnswerAlike ks tag s s' (.next (s.nextScalar limit attempt)) (.next (s'.nextScalar limit attempt')) := by
  refine EndAlike.answer ?_
  rw [State.nextScalar, State.nextScalar, hh]
  match s'.held.drawn with
  | none => exact drawAgain_alike hh limit
  | some .unavailable => exact .failed _
  | some (.value v) =>
    dsimp only
    split
    · have hv := ha v
      generalize attempt v = a, attempt' v = a' at hv ⊢
      cases hv with
      | some hv => exact hv
      | none => exact drawAgain_alike hh limit
    · exact drawAgain_alike hh limit

/-- Every command but NOP, which leaves the flags as they are, ends alike in the two states. -/
theorem exec_alike {i : Instr} (hw : i.wellFormed = true) (hi : i ≠ .nop) :
    AnswerAlike (Spec.dests i) (Spec.writesTag i) s s' (exec i s) (exec i s') := by
  cases i with
  | nop => exact absurd rfl hi
  | fadd rd ra rb => exact residue2_alike hh ..
  | fsub rd ra rb => exact residue2_alike hh ..
  | fmul rd ra rb => exact residue2_alike hh ..
  | fsqr rd ra => exact residue1_alike hh ..
  | finv rd ra => exact residue1_alike hh ..
  | nadd rd ra rb => exact residue2_alike hh ..
  | nsub rd ra rb => exact residue2_alike hh ..
  | nmul rd ra rb => exact residue2_alike hh ..
  | nsqr rd ra => exact residue1_alike hh ..
  | ninv rd ra => exact residue1_alike hh ..
  | nred rd ra =>
    simp only [exec, execNred, State.source_eq_of_held hh]
    exact answerAlike_completeResidue ..
  | nrand rd => exact nextScalar_alike hh _ fun v => .some (.done _ (agreeOn_setReg _ _) nofun)
  | pdbl rd ra => exact point1_alike hh _ (Bool.and_eq_true_iff.1 hw).1 _
  | paff rd ra => exact point1_alike hh _ (Bool.and_eq_true_iff.1 hw).1 _
  | padd rd ra rb =>
    obtain ⟨hrd, -⟩ := Bool.and_eq_true_iff.1 (Bool.and_eq_true_iff.1 hw).1
    simp only [exec, execPadd, State.sourcePoint_eq_of_held hh]
    exact .ite (answerAlike_completePoint hrd _) (answerAlike_raise _)
  | pmul rd ra rb =>
    obtain ⟨hrd, -⟩ := Bool.and_eq_true_iff.1 hw
    simp only [exec, execPmul, State.source_eq_of_held hh, State.sourcePoint_eq_of_held hh]
    exact .ite (answerAlike_raise _) (.ite (answerAlike_raise _) (.ite (answerAlike_raise _)
      (answerAlike_completePoint hrd _)))
  | pchk ra =>
    simp only [exec, execPchk, State.sourcePoint_eq_of_held hh]
    exact .ite (answerAlike_complete _ .nil nofun) (answerAlike_raise _)
  | pdec rd ra =>
    simp only [exec, execPdec, State.source_eq_of_held hh, State.sourceTag_eq_of_held hh]
    cases decodeKey s'.sourceTag (s'.source ra) with
    | none => exact answerAlike_raise _
    | some t => exact answerAlike_complete _ (agreeOn_setPoint hw _) nofun
  | penc rd ra =>
    simp only [exec, execPenc, State.sourcePoint_eq_of_held hh]
    exact .ite (answerAlike_raise _) (.ite (answerAlike_raise _)
      (answerAlike_complete _ (agreeOn_setReg _ _) fun _ => rfl))
  | keygen rd => exact nextScalar_alike hh _ fun v => .some (.done _ (agreeOn_setPair hw _ _) fun _ => rfl)
  | sign rd ra rb =>
    simp only [exec, execSign, signUnder, State.source_eq_of_held hh]
    refine .ite (answerAlike_raise _) (nextScalar_alike hh _ fun v => ?_)
    cases signWith (s'.source ra).toNat (reduceN (s'.source rb).toNat) v.toNat with
    | none => exact .none
    | some rs => exact .some (.done _ (agreeOn_setPair hw _ _) nofun)
  | verify ra rb rc =>
    simp only [exec, execVerify, State.source_eq_of_held hh, State.sourceTag_eq_of_held hh]
    refine .ite (answerAlike_raise _) ?_
    cases decodeKey s'.sourceTag (s'.source ra) with
    | none => exact answerAlike_raise _
    | some q => exact .ite (answerAlike_complete _ .nil nofun) (answerAlike_raise _)

end SameHeld

/-- Settles O60, by the three ways two states end alike; NOP writes nothing but its completion. -/
theorem resultDependsOnSampledStateOnly : Obligations.ResultDependsOnSampledStateOnly := by
  intro i s s' t t' h hw hs hs' ht ht'
  have hh : s.held = s'.held := (State.held_of_some hs).trans (State.held_of_some hs').symm
  by_cases hi : i = .nop
  · subst hi
    cases ht
    cases ht'
    exact ⟨rfl, fun _ => ⟨rfl, fun hne => absurd rfl hne, fun _ => ⟨nofun, nofun⟩⟩⟩
  obtain ⟨u, u', hu, hu', halike⟩ := exec_alike hh hw hi
  cases hu.symm.trans ht
  cases hu'.symm.trans ht'
  cases halike with
  | failed f => exact ⟨rfl, fun _ => ⟨rfl, fun _ => rfl, fun hok => absurd hok (by cases f <;> exact nofun)⟩⟩
  | waits => exact ⟨by rw [State.requestDraw_hidden, State.requestDraw_hidden, hh], nofun⟩
  | done f hregs htag => exact ⟨rfl, fun _ => ⟨rfl, fun _ => rfl, fun _ => ⟨hregs, htag⟩⟩⟩

end Sys2Proof.Machine

/-! SUPPORT. NOP (spec/45_system.md R210): a completion over the state as it stands, in the words of the spec (R76). -/

namespace Sys2Proof.Machine

/-- A completion writes no register and no tag of its own; the flags are those it is given. -/
theorem State.complete_eq_ok (s : State) (f : Flags) :
    s.complete f = Spec.ok s s.regs s.pktag f.z f.inf f.t := rfl

/-- Settles O6: NOP is the completion whose flags are those the state already holds. -/
theorem nopRule : Obligations.NopRule :=
  ⟨isWordOf_of_encode rfl (by decide), fun s => congrArg Host.Outcome.next (State.complete_eq_ok s s.flags)⟩

end Sys2Proof.Machine

/-! SUPPORT. How a command ends (R220, R224, R225), seen from the state it leaves: which code a failure has, and what
becomes of an illegal word. -/

namespace Sys2Proof.Machine

/-- A turn that leaves no hidden state has ended its command: a request of a draw keeps it (R39). -/
theorem ends_of_exec {i : Instr} {s t : State} (h : exec i s = .next t) (hend : t.hidden = none) : Ends s t := by
  rcases exec_cases i s with ⟨u, hu, hends⟩ | ⟨-, -, hwait⟩
  · cases hu.symm.trans h
    exact hends
  · cases hwait.symm.trans h
    exact absurd hend (by simp)

/-- The codes of R221 that a command of R93 can end with. -/
theorem failureCode_of_ne_illegalCommand {f : Failure} (hf : f ≠ .illegalCommand) :
    1 ≤ (failureCode f).toNat ∧ (failureCode f).toNat ≤ 4 := by
  cases f with
  | illegalCommand => exact absurd rfl hf
  | randomUnavailable => decide
  | invalidOperand => decide
  | invalidSignature => decide
  | malformedEncoding => decide

/-- Settles O40: only a raised failure ends a command with a code, and it is the completion step of that code. -/
theorem failingCommandWritesNothing : Obligations.FailingCommandWritesNothing := by
  intro i s t h hend hcode
  cases ends_of_exec h hend with
  | failed f hf =>
    obtain ⟨h1, h4⟩ := failureCode_of_ne_illegalCommand hf
    exact ⟨_, h1, h4, State.raise_eq_fails s f⟩
  | done u f _ => exact absurd (State.complete_outcome u f) hcode

theorem coreTurn_of_illegal {s : State} {e : Illegal} (hb : s.busy = true) (hw : s.rngwait = false)
    (hd : decode s.cmd = .error e) : coreTurn s = .next (s.raise .illegalCommand) := by
  simp only [coreTurn, (phase_run_iff s).2 ⟨hb, hw⟩, hd]

/-- Settles O38: acceptance does not look at the word, and the core's turn in RUN finds no command in it. -/
theorem illegalWordCompletes : Obligations.IllegalWordCompletes := by
  intro s w e rest hd hb ha
  refine ⟨_, acceptanceStep s w _ hb ha, rfl, rfl, ?_⟩
  rw [step_of_core rfl, coreTurn_of_illegal rfl rfl hd, State.raise_eq_fails]
  rfl

end Sys2Proof.Machine

/-! SUPPORT. The outputs of the core: the interrupt (R230) under each operation that touches DONE or IE, and the entropy
port (R236), one equation for each thing the lines can say. -/

namespace Sys2Proof.Machine

/-! ### The interrupt -/

@[simp] theorem irq_respond (s : State) (a : PortAnswer) : irq (s.respond a) = irq s := rfl

@[simp] theorem irq_accept (s : State) (w : Word) : irq (s.accept w) = false := rfl

@[simp] theorem irq_hardReset (s : State) : irq s.hardReset = false := rfl

theorem irq_of_not_done {s : State} (h : s.done = false) : irq s = false := by
  rw [irq, h, Bool.false_and]

/-- Every end of a command sets DONE and keeps IE, whatever its outcome (R76). -/
theorem Ends.irq_eq {s t : State} (h : Ends s t) : irq t = s.ie := by
  cases h with
  | failed f _ => rw [irq, State.raise_done, State.raise_ie, Bool.true_and]
  | done u f hu =>
    have hie : u.ie = s.ie := by rw [hu]
    rw [irq, State.complete_done, State.complete_ie, hie, Bool.true_and]

theorem writeEffect_ctrl_of_reset {v : Word} (hv : v.getLsbD 1 = true) (s : State) :
    writeEffect s v .ctrl = s.hardReset := by
  simp only [writeEffect, hv, if_true, State.softReset_eq_hardReset]

/-- The interrupt after a write is that of its effect: the answer of the port does not touch it. -/
theorem irq_memWrite {a : Offset} {size : Nat} {m : Mapped} (h : target a size = some m) (s : State) (v : Word) :
    irq (memWrite s a size v) = irq (writeEffect s v m) := by
  rw [memWrite_of_some h, irq_respond]

/-- Settles O56: a completion sets DONE; acceptance, the clearing of DONE and both resets leave it 0. -/
theorem interruptOutput : Obligations.InterruptOutput := by
  intro s
  refine ⟨rfl, fun i t h hend => (ends_of_exec h hend).irq_eq, fun w hb => ?accepted, fun v hv => ?cleared,
    irq_hardReset s, fun v hv => ?softReset⟩
  case accepted => rw [irq_memWrite (m := .cmd) (by decide), writeEffect_cmd_of_not_busy hb, irq_accept]
  case cleared =>
    rw [irq_memWrite (m := .status) (by decide), writeEffect_status]
    exact irq_of_not_done (by simp [hv])
  case softReset => rw [irq_memWrite (m := .ctrl) (by decide), writeEffect_ctrl_of_reset hv, irq_hardReset]

/-! ### The entropy port -/

theorem step_of_entropy {s : State} {rest : List Event} {valid fail : Bool} {data : Value}
    (h : s.agenda = .entropy valid fail data :: rest) :
    step s = .next (entropyLines { s with agenda := rest } valid fail data) := by
  simp only [step, h]

theorem drawOfLines_fail (valid : Bool) (data : Value) : drawOfLines valid true data = some .unavailable := rfl

theorem drawOfLines_valid (data : Value) : drawOfLines true false data = some (.value data) := rfl

theorem drawOfLines_neither (data : Value) : drawOfLines false false data = none := rfl

theorem entropyLines_of_no_request {s : State} (hw : s.rngwait = false) (valid fail : Bool) (data : Value) :
    entropyLines s valid fail data = s := by
  simp only [entropyLines, hw, Bool.false_eq_true, if_false]

theorem entropyLines_of_no_draw {valid fail : Bool} {data : Value} (hd : drawOfLines valid fail data = none)
    (s : State) : entropyLines s valid fail data = s := by
  simp only [entropyLines, hd, ite_self]

/-- An answered draw ends the wait. -/
theorem entropyLines_of_draw {s : State} {h : Hidden} {valid fail : Bool} {data : Value} {d : Draw}
    (hs : s.hidden = some h) (hw : s.rngwait = true) (hd : drawOfLines valid fail data = some d) :
    entropyLines s valid fail data = { s with rngwait := false, hidden := some { h with drawn := some d } } := by
  simp only [entropyLines, hw, if_true, hd, State.held_of_some hs]

theorem coreTurn_of_wait {s : State} (hb : s.busy = true) (hw : s.rngwait = true) : coreTurn s = .next s := by
  simp only [coreTurn, (phase_wait_iff s).2 ⟨hb, hw⟩]

/-- Settles O57, by what the lines say; the agenda plays no part in it. -/
theorem entropyHandshake : Obligations.EntropyHandshake := by
  intro s valid fail data rest
  refine ⟨rfl, fun ha => ?lines, fun hb hw => ⟨fun ha => ?turn, fun ha => ?lastTurn⟩⟩
  case lines =>
    rw [step_of_entropy ha]
    refine ⟨fun hquiet => congrArg _ ?ignored,
      fun h hs hw => ⟨fun hf => congrArg _ ?failed, fun hf hv => congrArg _ ?drawn⟩⟩
    case ignored =>
      rcases hquiet with hw | ⟨rfl, rfl⟩
      · exact entropyLines_of_no_request (s := { s with agenda := rest }) hw ..
      · exact entropyLines_of_no_draw (drawOfLines_neither data) _
    case failed =>
      subst hf
      exact entropyLines_of_draw hs hw (drawOfLines_fail valid data)
    case drawn =>
      subst hf hv
      exact entropyLines_of_draw hs hw (drawOfLines_valid data)
  case turn => exact (step_of_core ha).trans (coreTurn_of_wait hb hw)
  case lastTurn => exact (step_of_nil ha).trans (coreTurn_of_wait hb hw)

end Sys2Proof.Machine

/-! SUPPORT. That the machine goes on (R271, R275): a turn of a command ends it or asks for a draw, and only a transaction
started during `rst` is refused (R261). -/

namespace Sys2Proof.Machine

/-- An ended command is complete (R76), with a code that a command of R93 can have. -/
theorem Ends.completed {s t : State} (h : Ends s t) :
    t.hidden = none ∧ t.busy = false ∧ t.done = true ∧ t.rngwait = false ∧ t.outcome.toNat ≤ 4 := by
  cases h with
  | failed f hf => exact ⟨rfl, rfl, rfl, rfl, (failureCode_of_ne_illegalCommand hf).2⟩
  | done u f _ => exact ⟨rfl, rfl, rfl, rfl, Nat.zero_le 4⟩

/-- Settles O42: a command's turn ends it, or it draws. -/
theorem onlySamplersWait : Obligations.OnlySamplersWait := by
  intro i s
  rcases exec_cases i s with ⟨t, ht, hends⟩ | ⟨hdraw, -, hwait⟩
  · exact ⟨t, ht, .inl hends.completed⟩
  · exact ⟨_, hwait, .inr ⟨hdraw, rfl⟩⟩

/-- No turn of the core stops the machine, whatever word it runs. -/
theorem exists_coreTurn_eq_next (s : State) : ∃ t, coreTurn s = .next t := by
  rcases coreTurn_cases s with ⟨-, hrests⟩ | ⟨-, -, hfails⟩ | ⟨-, i, -, hruns⟩
  · exact ⟨s, hrests⟩
  · exact ⟨_, hfails⟩
  · obtain ⟨t, ht, -⟩ := onlySamplersWait i s
    exact ⟨t, hruns.trans ht⟩

theorem step_of_reset {s : State} {rest : List Event} (h : s.agenda = .reset none :: rest) :
    step s = .next (State.hardReset { s with agenda := rest }) := by
  simp only [step, h]

theorem step_of_hostDuringReset {s : State} {rest : List Event} {tr : Transaction}
    (h : s.agenda = .reset (some tr) :: rest) : step s = .refused .hostDuringReset := by
  simp only [step, h]

/-- Every step goes on but for the one that U15 refuses. -/
theorem step_goes_on_or_refused (s : State) :
    (∃ t, step s = .next t) ∨
    (∃ tr rest, s.agenda = .reset (some tr) :: rest) ∧ step s = .refused .hostDuringReset := by
  match h : s.agenda with
  | [] => exact .inl ((step_of_nil h).symm ▸ exists_coreTurn_eq_next _)
  | .core :: rest => exact .inl ((step_of_core h).symm ▸ exists_coreTurn_eq_next _)
  | .host tr :: rest => exact .inl ⟨_, step_of_host h⟩
  | .entropy valid fail data :: rest => exact .inl ⟨_, step_of_entropy h⟩
  | .reset none :: rest => exact .inl ⟨_, step_of_reset h⟩
  | .reset (some tr) :: rest => exact .inr ⟨⟨tr, rest, rfl⟩, step_of_hostDuringReset h⟩

theorem step_refused_iff (s : State) (r : Refusal) :
    step s = .refused r ↔ r = .hostDuringReset ∧ ∃ tr rest, s.agenda = .reset (some tr) :: rest := by
  constructor
  · intro hr
    rcases step_goes_on_or_refused s with ⟨t, ht⟩ | ⟨hbroken, href⟩
    · cases ht.symm.trans hr
    · cases href.symm.trans hr
      exact ⟨rfl, hbroken⟩
  · rintro ⟨rfl, tr, rest, h⟩
    exact step_of_hostDuringReset h

/-! ### Runs -/

/-- The surroundings' events are their own: no event of the agenda changes it. -/
theorem Effect.agenda_eq {s t : State} {e : Event} (he : Effect s e t) : t.agenda = s.agenda := by
  cases he with
  | coreCompletes u f _ hu =>
    have hagenda : u.agenda = s.agenda := by rw [hu]
    exact hagenda
  | _ => rfl

theorem step_agenda {s t : State} (h : step s = .next t) : t.agenda = s.agenda.tail := (step_effect h).agenda_eq

/-- The duty of R261 speaks of every event to come, so a step keeps it. -/
theorem State.agendaKeepsDuty.of_step {s t : State} (hs : s.agendaKeepsDuty) (h : step s = .next t) :
    t.agendaKeepsDuty := fun tr hmem => hs tr (List.mem_of_mem_tail (step_agenda h ▸ hmem))

theorem State.agendaKeepsDuty.goes_on {s : State} (hs : s.agendaKeepsDuty) : ∃ t, step s = .next t := by
  rcases step_goes_on_or_refused s with hnext | ⟨⟨tr, rest, h⟩, -⟩
  · exact hnext
  · exact absurd (h ▸ List.mem_cons_self) (hs tr)

theorem run_succ_of_step {s t : State} (h : step s = .next t) (k : Nat) :
    Sys2Proof.core.run (k + 1) s = Sys2Proof.core.run k t := by
  have hcore : Sys2Proof.core.step s = .next t := h
  simp only [Host.Core.run, hcore]

/-- Where a property lets each step go on to a state that has it again, runs from it are safe. -/
theorem safe_of_step {P : State → Prop} (hP : ∀ s, P s → ∃ t, step s = .next t ∧ P t) {s : State} (hs : P s) :
    Safe s := by
  intro k
  induction k generalizing s with
  | zero => exact ⟨s, rfl⟩
  | succ k ih =>
    obtain ⟨t, hstep, ht⟩ := hP s hs
    rw [run_succ_of_step hstep]
    exact ih ht

/-- Settles O46: no fault exists, and where the duty of R261 is kept each step goes on and keeps it. -/
theorem runsNeverStop : Obligations.RunsNeverStop := by
  refine ⟨fun _ => nofun, step_refused_iff, fun s => safe_of_step fun u hu => ?_⟩
  obtain ⟨t, ht⟩ := hu.goes_on
  exact ⟨t, ht, hu.of_step ht⟩

end Sys2Proof.Machine

/-! SUPPORT. Reset (R261, R262, R264) and the writes of a busy core (R268, R269), by what the offset addresses. -/

namespace Sys2Proof.Machine

/-- Settles O49: both resets are the hard one, and the write is answered after it (R262). -/
theorem hardAndSoftReset : Obligations.HardAndSoftReset := by
  intro s v rest
  refine ⟨step_of_reset, fun hv ha => ?_⟩
  have htarget : target 0x010#10 4 = some .ctrl := by decide
  rw [step_of_host ha, serve, memWrite_of_some htarget, writeEffect_ctrl_of_reset hv]
  rfl

/-- An aligned offset of the upper half is a word of some operand register (R66). -/
theorem exists_target_operand {a : Offset} (haligned : a.toNat % 4 = 0) (ha : 0x200 ≤ a.toNat) :
    ∃ i j, target a 4 = some (.operand i j) := by
  refine ⟨BitVec.ofNat 4 ((a.toNat - 0x200) / 32), Fin.ofNat 8 ((a.toNat - 0x200) / 4), ?_⟩
  rw [target, if_pos ⟨rfl, haligned⟩, mapped]
  iterate 7 rw [if_neg (by omega)]
  exact if_pos ha

/-! ### Reads after reset -/

/-- The six control registers above `ID` (R30). -/
theorem exists_target_control {k : Nat} (hk : 1 ≤ k) (hlt : k < 7) :
    ∃ m, target (BitVec.ofNat 10 (4 * k)) 4 = some m ∧ m ≠ .id := by
  interval_cases k
  · exact ⟨.cmd, by decide, nofun⟩
  · exact ⟨.status, by decide, nofun⟩
  · exact ⟨.flags, by decide, nofun⟩
  · exact ⟨.ctrl, by decide, nofun⟩
  · exact ⟨.fsticky, by decide, nofun⟩
  · exact ⟨.pktag, by decide, nofun⟩

/-- Every aligned offset but 0 and those of the gap holds something other than `ID` (R30, R65). -/
theorem exists_target_ne_id {a : Offset} (haligned : a.toNat % 4 = 0) (hzero : a.toNat ≠ 0)
    (hgap : ¬(0x01C ≤ a.toNat ∧ a.toNat < 0x200)) : ∃ m, target a 4 = some m ∧ m ≠ .id := by
  by_cases ha : 0x200 ≤ a.toNat
  · obtain ⟨i, j, h⟩ := exists_target_operand haligned ha
    exact ⟨_, h, nofun⟩
  · have hk := exists_target_control (k := a.toNat / 4) (by omega) (by omega)
    rwa [Nat.mul_div_cancel' (Nat.dvd_of_mod_eq_zero haligned), BitVec.ofNat_toNat, BitVec.setWidth_eq] at hk

theorem valueWord_zero (j : Fin 8) : valueWord 0 j = 0#32 := BitVec.extractLsb'_zero

/-- After reset nothing but `ID` holds a bit. -/
theorem readData_reset {m : Mapped} (hm : m ≠ .id) : readData State.reset m = 0#32 := by
  cases m with
  | id => exact absurd rfl hm
  | operand i j => rw [readData_operand_of_not_busy rfl, State.reg_reset, valueWord_zero]
  | cmd => rfl
  | status => rfl
  | flags => rfl
  | ctrl => rfl
  | fsticky => rfl
  | pktag => rfl

/-- Settles O48, by the three kinds of offset: one that addresses nothing, that of `ID`, and the others. -/
theorem resetWindowReads : Obligations.ResetWindowReads := by
  intro a
  by_cases hbad : a.toNat % 4 ≠ 0 ∨ 0x01C ≤ a.toNat ∧ a.toNat < 0x200
  · rw [if_pos hbad, memRead_of_none (target_eq_none (.inr hbad)), State.respond_portAnswer]
  rw [if_neg hbad]
  obtain ⟨haligned, hgap⟩ := not_or.1 hbad
  by_cases hzero : a.toNat = 0
  · obtain rfl : a = 0#10 := BitVec.eq_of_toNat_eq hzero
    rw [memRead_of_some (m := .id) (by decide)]
    rfl
  · obtain ⟨m, hm, hid⟩ := exists_target_ne_id (not_not.1 haligned) hzero hgap
    rw [if_neg hzero, memRead_of_some hm, State.respond_portAnswer, readData_reset hid]

/-! ### Writes while BUSY -/

/-- The registers whose writes a busy core drops (R268, R269). -/
def LockedWhileBusy (m : Mapped) : Prop := m = .cmd ∨ m = .pktag ∨ ∃ i j, m = .operand i j

theorem writeEffect_of_locked {s : State} (hb : s.busy = true) {m : Mapped} (hm : LockedWhileBusy m) (v : Word) :
    writeEffect s v m = s.violation := by
  rcases hm with rfl | rfl | ⟨i, j, rfl⟩
  · simp [writeEffect, hb]
  · simp [writeEffect, hb]
  · simp [writeEffect, hb]

/-- Settles O53: the offsets it names address the locked registers. -/
theorem busyWritesDropped : Obligations.BusyWritesDropped := by
  intro s a v hb ha
  obtain ⟨m, hm, hlocked⟩ : ∃ m, target a 4 = some m ∧ LockedWhileBusy m := by
    rcases ha with rfl | rfl | ⟨haligned, ha⟩
    · exact ⟨.cmd, by decide, .inl rfl⟩
    · exact ⟨.pktag, by decide, .inr (.inl rfl)⟩
    · obtain ⟨i, j, h⟩ := exists_target_operand haligned ha
      exact ⟨_, h, .inr (.inr ⟨i, j, rfl⟩)⟩
  rw [memWrite_of_some hm, writeEffect_of_locked hb hlocked]
  rfl

end Sys2Proof.Machine
